-- ==== Sys2Proof/Word.lean ====
section
/-! DEFINITION. The words of the machine (spec 00_scope.md R6, R7): an 8-bit byte, a 16-bit word,
a 12-bit immediate address, and the number of a general register. Every value is unsigned. -/

namespace Sys2Proof

/-- One byte: a general register, a timer, a cell of MEM (R6). -/
abbrev Byte := BitVec 8

/-- A 16-bit word: pc, I, a stack slot, an opcode (R6, R13, R16, R17, R45). -/
abbrev Word := BitVec 16

/-- The 12-bit immediate address `nnn` of 1nnn, 2nnn, Annn (R46). -/
abbrev Imm12 := BitVec 12

/-- The number of a general register, the value of an `x` or `y` field (R10, R46). -/
abbrev Reg := Fin 16

/-- VF is `V[15]`, with no storage of its own (R8, R12). -/
abbrev VF : Reg := 15

end Sys2Proof
end

