-- ==== Sys2Proof/Machine/Flags.lean ====
section
/-! DEFINITION. The three flag computations (spec 10_state.md R12, 41_alu.md R79). The flag is VF, a
whole byte that receives 0 or 1; no other instruction writes it as a side effect. -/

namespace Sys2Proof.Machine

/-- The carry of 8xy4: 1 if the sum exceeds 255, else 0 (R76). -/
def carryFlag (a b : Byte) : Byte := if a.toNat + b.toNat > 255 then 1 else 0

/-- The no-borrow flag of 8xy5, `a - b`: 0 if `b > a`, else 1 (R77). -/
def noBorrowFlag (a b : Byte) : Byte := if b.toNat > a.toNat then 0 else 1

/-- The collision flag of Dxyn: 1 if a cell went from 1 to 0, else 0 (R89). -/
def collisionFlag (hit : Bool) : Byte := if hit then 1 else 0

end Sys2Proof.Machine
end

