-- ==== Sys2Proof/Syntax.lean ====
section
/-! DEFINITION. The instructions (spec 30_encoding.md R51, R52): one constructor per row of
spec/opcode_table.json, in the table's order. The operands are the fields of R46, each of its own
width, so every value of a field is an operand (R53). -/

namespace Sys2Proof

/-- The 29 instructions of R51 and the unknown opcode of R98. -/
inductive Instr where
  /-- 00E0 CLS (R88). -/
  | cls
  /-- 00EE RET (R62). -/
  | ret
  /-- 1nnn JP nnn (R63). -/
  | jp (nnn : Imm12)
  /-- 2nnn CALL nnn (R64). -/
  | call (nnn : Imm12)
  /-- 3xnn SE Vx, nn (R65). -/
  | seImm (x : Reg) (nn : Byte)
  /-- 4xnn SNE Vx, nn (R66). -/
  | sneImm (x : Reg) (nn : Byte)
  /-- 5xy0 SE Vx, Vy (R67). -/
  | seReg (x y : Reg)
  /-- 6xnn LD Vx, nn (R70). -/
  | ldImm (x : Reg) (nn : Byte)
  /-- 7xnn ADD Vx, nn (R71). -/
  | addImm (x : Reg) (nn : Byte)
  /-- 8xy0 LD Vx, Vy (R72). -/
  | ldReg (x y : Reg)
  /-- 8xy1 OR Vx, Vy (R73). -/
  | orReg (x y : Reg)
  /-- 8xy2 AND Vx, Vy (R74). -/
  | andReg (x y : Reg)
  /-- 8xy3 XOR Vx, Vy (R75). -/
  | xorReg (x y : Reg)
  /-- 8xy4 ADD Vx, Vy (R76). -/
  | addReg (x y : Reg)
  /-- 8xy5 SUB Vx, Vy (R77). -/
  | subReg (x y : Reg)
  /-- 9xy0 SNE Vx, Vy (R68). -/
  | sneReg (x y : Reg)
  /-- Annn LD I, nnn (R80). -/
  | ldI (nnn : Imm12)
  /-- Cxnn RND Vx, nn (R78). -/
  | rnd (x : Reg) (nn : Byte)
  /-- Dxyn DRW Vx, Vy, n (R89); `n` is the number of rows, 0..15. -/
  | drw (x y : Reg) (n : Fin 16)
  /-- Ex9E SKP Vx (R92). -/
  | skp (x : Reg)
  /-- ExA1 SKNP Vx (R93). -/
  | sknp (x : Reg)
  /-- Fx07 LD Vx, DT (R95). -/
  | ldFromDt (x : Reg)
  /-- Fx0A LD Vx, K (R94). -/
  | ldKey (x : Reg)
  /-- Fx15 LD DT, Vx (R96). -/
  | ldToDt (x : Reg)
  /-- Fx1E ADD I, Vx (R81). -/
  | addI (x : Reg)
  /-- Fx29 LD F, Vx (R82). -/
  | ldFont (x : Reg)
  /-- Fx33 LD B, Vx (R83). -/
  | ldBcd (x : Reg)
  /-- Fx55 LD [I], Vx (R84). -/
  | storeRegs (x : Reg)
  /-- Fx65 LD Vx, [I] (R85). -/
  | loadRegs (x : Reg)
  /-- Any other word (R52, R98): the word itself, whose fields are ignored. -/
  | unknown (w : Word)
  deriving DecidableEq, Repr

end Sys2Proof
end

