-- ==== Sys2Proof/Decode.lean ====
section
/-! DEFINITION. Decoding and encoding (spec 30_encoding.md): the fields (R46), the decoder (R49,
R50), the opcode map as data (R51), the unknown-opcode space (R52), and the encoder (R47, R54).
Every one of the 65 536 words decodes (R53); the one thing the decoder turns away, by name, is a
byte sequence too short to hold an instruction. -/

namespace Sys2Proof

/-! ### Fields (R46) -/

/-- The 4-bit field of `w` whose lowest bit is bit `lo`, as a number. -/
def nibbleAt (w : Word) (lo : Nat) : Fin 16 := (w.extractLsb' lo 4).toFin

/-- `op`, bits 15:12: the primary selector. -/
def opField (w : Word) : Nat := (nibbleAt w 12).val

/-- `x`, bits 11:8. -/
def xField (w : Word) : Reg := nibbleAt w 8

/-- `y`, bits 7:4. -/
def yField (w : Word) : Reg := nibbleAt w 4

/-- `n`, bits 3:0. -/
def nField (w : Word) : Fin 16 := nibbleAt w 0

/-- `nn`, bits 7:0. -/
def nnField (w : Word) : Byte := w.extractLsb' 0 8

/-- `nnn`, bits 11:0. -/
def nnnField (w : Word) : Imm12 := w.extractLsb' 0 12

/-! ### Decoder (R49, R50) -/

/-- High nibble 0: only the whole words 00E0 and 00EE are instructions (R50). -/
def decode0 (w : Word) : Instr :=
  if w = 0x00E0 then .cls else if w = 0x00EE then .ret else .unknown w

/-- High nibble 5: the low nibble must be 0 (R50). -/
def decode5 (w : Word) : Instr :=
  if (nField w).val = 0x0 then .seReg (xField w) (yField w) else .unknown w

/-- High nibble 8: the low nibble selects (R49); 6 to F are unknown (R52). -/
def decode8 (w : Word) : Instr :=
  match (nField w).val with
  | 0x0 => .ldReg (xField w) (yField w)
  | 0x1 => .orReg (xField w) (yField w)
  | 0x2 => .andReg (xField w) (yField w)
  | 0x3 => .xorReg (xField w) (yField w)
  | 0x4 => .addReg (xField w) (yField w)
  | 0x5 => .subReg (xField w) (yField w)
  | _ => .unknown w

/-- High nibble 9: the low nibble must be 0 (R50). -/
def decode9 (w : Word) : Instr :=
  if (nField w).val = 0x0 then .sneReg (xField w) (yField w) else .unknown w

/-- High nibble E: the low byte selects (R49). -/
def decodeE (w : Word) : Instr :=
  match (nnField w).toNat with
  | 0x9E => .skp (xField w)
  | 0xA1 => .sknp (xField w)
  | _ => .unknown w

/-- High nibble F: the low byte selects (R49). -/
def decodeF (w : Word) : Instr :=
  match (nnField w).toNat with
  | 0x07 => .ldFromDt (xField w)
  | 0x0A => .ldKey (xField w)
  | 0x15 => .ldToDt (xField w)
  | 0x1E => .addI (xField w)
  | 0x29 => .ldFont (xField w)
  | 0x33 => .ldBcd (xField w)
  | 0x55 => .storeRegs (xField w)
  | 0x65 => .loadRegs (xField w)
  | _ => .unknown w

/-- The instruction a 16-bit word is (R49): first the high nibble, then the secondary selector. High
nibble B has no instruction (R52). The last arm is never taken, since `op` is below 16. -/
def decode (w : Word) : Instr :=
  match opField w with
  | 0x0 => decode0 w
  | 0x1 => .jp (nnnField w)
  | 0x2 => .call (nnnField w)
  | 0x3 => .seImm (xField w) (nnField w)
  | 0x4 => .sneImm (xField w) (nnField w)
  | 0x5 => decode5 w
  | 0x6 => .ldImm (xField w) (nnField w)
  | 0x7 => .addImm (xField w) (nnField w)
  | 0x8 => decode8 w
  | 0x9 => decode9 w
  | 0xA => .ldI (nnnField w)
  | 0xB => .unknown w
  | 0xC => .rnd (xField w) (nnField w)
  | 0xD => .drw (xField w) (yField w) (nField w)
  | 0xE => decodeE w
  | 0xF => decodeF w
  | _ => .unknown w

/-- What the decoder turns away: fewer than two bytes are no instruction (R45). It stops nothing of
the machine, whose fetch always has two bytes (R35); safe. -/
inductive DecodeError where
  | truncated
  deriving DecidableEq, Repr

/-- The word of two bytes, high byte first (R32). -/
def wordOfBytes (hi lo : Byte) : Word := hi ++ lo

/-- The first instruction of a byte sequence and the bytes after it (R45): always two bytes long. -/
def decodeBytes : List Byte → Except DecodeError (Instr × List Byte)
  | hi :: lo :: rest => .ok (decode (wordOfBytes hi lo), rest)
  | _ => .error .truncated

/-- The two bytes of a word in the order of their addresses: the high byte first (R32). -/
def bytesOfWord (w : Word) : List Byte := [w.extractLsb' 8 8, w.extractLsb' 0 8]

/-- The instruction the decoder reads from the table word `w` of `nbits` bits: bit 0 of `w` is the
least significant bit of the one 16-bit word, and its bits above `nbits` are 0. -/
def decodeTableWord (nbits w : Nat) : Option Instr :=
  match decodeBytes (bytesOfWord (BitVec.ofNat 16 (w % 2 ^ nbits))) with
  | .ok (i, _) => some i
  | .error _ => none

/-! ### The opcode map as data (R51, R52) -/

/-- A row of R51: its number, its pattern, and the words it matches, `(w & mask) = mtch` (R49). -/
structure MapRow where
  num : Nat
  pattern : String
  mtch : Word
  mask : Word
  deriving DecidableEq, Repr

/-- Rows 1 to 9 of R51. -/
def mapRows1 : List MapRow :=
  [⟨1, "00E0", 0x00E0, 0xFFFF⟩, ⟨2, "00EE", 0x00EE, 0xFFFF⟩, ⟨3, "1nnn", 0x1000, 0xF000⟩,
   ⟨4, "2nnn", 0x2000, 0xF000⟩, ⟨5, "3xnn", 0x3000, 0xF000⟩, ⟨6, "4xnn", 0x4000, 0xF000⟩,
   ⟨7, "5xy0", 0x5000, 0xF00F⟩, ⟨8, "6xnn", 0x6000, 0xF000⟩, ⟨9, "7xnn", 0x7000, 0xF000⟩]

/-- Rows 10 to 19 of R51. -/
def mapRows2 : List MapRow :=
  [⟨10, "8xy0", 0x8000, 0xF00F⟩, ⟨11, "8xy1", 0x8001, 0xF00F⟩, ⟨12, "8xy2", 0x8002, 0xF00F⟩,
   ⟨13, "8xy3", 0x8003, 0xF00F⟩, ⟨14, "8xy4", 0x8004, 0xF00F⟩, ⟨15, "8xy5", 0x8005, 0xF00F⟩,
   ⟨16, "9xy0", 0x9000, 0xF00F⟩, ⟨17, "Annn", 0xA000, 0xF000⟩, ⟨18, "Cxnn", 0xC000, 0xF000⟩,
   ⟨19, "Dxyn", 0xD000, 0xF000⟩]

/-- Rows 20 to 29 of R51. -/
def mapRows3 : List MapRow :=
  [⟨20, "Ex9E", 0xE09E, 0xF0FF⟩, ⟨21, "ExA1", 0xE0A1, 0xF0FF⟩, ⟨22, "Fx07", 0xF007, 0xF0FF⟩,
   ⟨23, "Fx0A", 0xF00A, 0xF0FF⟩, ⟨24, "Fx15", 0xF015, 0xF0FF⟩, ⟨25, "Fx1E", 0xF01E, 0xF0FF⟩,
   ⟨26, "Fx29", 0xF029, 0xF0FF⟩, ⟨27, "Fx33", 0xF033, 0xF0FF⟩, ⟨28, "Fx55", 0xF055, 0xF0FF⟩,
   ⟨29, "Fx65", 0xF065, 0xF0FF⟩]

/-- The complete opcode map (R51), 29 rows. -/
def opcodeMap : List MapRow := mapRows1 ++ mapRows2 ++ mapRows3

/-- The word matches the row (R49). -/
def MapRow.selects (r : MapRow) (w : Word) : Bool := w &&& r.mask == r.mtch

/-- The number of an instruction's row in R51; the unknown opcode has none. -/
def Instr.rowNumber : Instr → Option Nat
  | .cls => some 1
  | .ret => some 2
  | .jp _ => some 3
  | .call _ => some 4
  | .seImm _ _ => some 5
  | .sneImm _ _ => some 6
  | .seReg _ _ => some 7
  | .ldImm _ _ => some 8
  | .addImm _ _ => some 9
  | .ldReg _ _ => some 10
  | .orReg _ _ => some 11
  | .andReg _ _ => some 12
  | .xorReg _ _ => some 13
  | .addReg _ _ => some 14
  | .subReg _ _ => some 15
  | .sneReg _ _ => some 16
  | .ldI _ => some 17
  | .rnd _ _ => some 18
  | .drw _ _ _ => some 19
  | .skp _ => some 20
  | .sknp _ => some 21
  | .ldFromDt _ => some 22
  | .ldKey _ => some 23
  | .ldToDt _ => some 24
  | .addI _ => some 25
  | .ldFont _ => some 26
  | .ldBcd _ => some 27
  | .storeRegs _ => some 28
  | .loadRegs _ => some 29
  | .unknown _ => none

/-- The unknown-opcode space by high nibble, as the table of R52 lists it. -/
def inUnknownSpace (w : Word) : Bool :=
  match opField w with
  | 0x0 => w != 0x00E0 && w != 0x00EE
  | 0x5 => (nField w).val != 0
  | 0x8 => decide (6 ≤ (nField w).val)
  | 0x9 => (nField w).val != 0
  | 0xB => true
  | 0xE => !([0x9E, 0xA1] : List Byte).contains (nnField w)
  | 0xF => !([0x07, 0x0A, 0x15, 0x1E, 0x29, 0x33, 0x55, 0x65] : List Byte).contains (nnField w)
  | _ => false

/-! ### Encoder (R47, R54) -/

/-- A register number or row count as the four bits of its field. -/
def nibble (x : Fin 16) : BitVec 4 := BitVec.ofFin x

/-- Format NNN of R47: op, nnn. -/
def encNNN (op : BitVec 4) (nnn : Imm12) : Word := op ++ nnn

/-- Formats XNN and XSS of R47: op, x, then the low byte, an immediate or a selector. -/
def encXNN (op : BitVec 4) (x : Reg) (nn : Byte) : Word := op ++ nibble x ++ nn

/-- Format XYN of R47: op, x, y, then the low nibble, an operand or a selector. -/
def encXYN (op : BitVec 4) (x y : Reg) (n : Fin 16) : Word := op ++ nibble x ++ nibble y ++ nibble n

/-- The word of an instruction (R51). -/
def encode : Instr → Word
  | .cls => 0x00E0
  | .ret => 0x00EE
  | .jp nnn => encNNN 0x1 nnn
  | .call nnn => encNNN 0x2 nnn
  | .seImm x nn => encXNN 0x3 x nn
  | .sneImm x nn => encXNN 0x4 x nn
  | .seReg x y => encXYN 0x5 x y 0x0
  | .ldImm x nn => encXNN 0x6 x nn
  | .addImm x nn => encXNN 0x7 x nn
  | .ldReg x y => encXYN 0x8 x y 0x0
  | .orReg x y => encXYN 0x8 x y 0x1
  | .andReg x y => encXYN 0x8 x y 0x2
  | .xorReg x y => encXYN 0x8 x y 0x3
  | .addReg x y => encXYN 0x8 x y 0x4
  | .subReg x y => encXYN 0x8 x y 0x5
  | .sneReg x y => encXYN 0x9 x y 0x0
  | .ldI nnn => encNNN 0xA nnn
  | .rnd x nn => encXNN 0xC x nn
  | .drw x y n => encXYN 0xD x y n
  | .skp x => encXNN 0xE x 0x9E
  | .sknp x => encXNN 0xE x 0xA1
  | .ldFromDt x => encXNN 0xF x 0x07
  | .ldKey x => encXNN 0xF x 0x0A
  | .ldToDt x => encXNN 0xF x 0x15
  | .addI x => encXNN 0xF x 0x1E
  | .ldFont x => encXNN 0xF x 0x29
  | .ldBcd x => encXNN 0xF x 0x33
  | .storeRegs x => encXNN 0xF x 0x55
  | .loadRegs x => encXNN 0xF x 0x65
  | .unknown w => w

end Sys2Proof
end

