-- ==== Sys2Proof/Config.lean ====
section
/-! DEFINITION. The parameters of the machine (spec 00_scope.md R6, 20_memory.md R33) and its one
free value, the byte of the random source (41_alu.md R78). -/

namespace Sys2Proof.Config

/-- `MEM_SIZE` (R6): MEM has the addresses 0..4095. -/
def memSize : Nat := 4096

/-- The highest address of MEM (R6, R36). -/
def memTop : Nat := 4095

/-- The highest pc a fetch accepts, since an instruction is two bytes long (R15, R35). -/
def fetchTop : Nat := 4094

/-- `PROG_BASE` (R6): where a program is loaded, and the value of pc after `LOAD` (R23, R31). -/
def progBase : Nat := 0x200

/-- `ROM_MAX` (R6): the length of the largest image `LOAD` accepts. -/
def romMax : Nat := 3584

/-- Glyphs 0 to 7 of the default `FONT` (R33). -/
def fontLow : List Byte :=
  [0xF0, 0x90, 0x90, 0x90, 0xF0] ++ [0x20, 0x60, 0x20, 0x20, 0x70] ++
  [0xF0, 0x10, 0xF0, 0x80, 0xF0] ++ [0xF0, 0x10, 0xF0, 0x10, 0xF0] ++
  [0x90, 0x90, 0xF0, 0x10, 0x10] ++ [0xF0, 0x80, 0xF0, 0x10, 0xF0] ++
  [0xF0, 0x80, 0xF0, 0x90, 0xF0] ++ [0xF0, 0x10, 0x20, 0x40, 0x40]

/-- Glyphs 8 to F of the default `FONT` (R33). -/
def fontHigh : List Byte :=
  [0xF0, 0x90, 0xF0, 0x90, 0xF0] ++ [0xF0, 0x90, 0xF0, 0x10, 0xF0] ++
  [0xF0, 0x90, 0xF0, 0x90, 0x90] ++ [0xE0, 0x90, 0xE0, 0x90, 0xE0] ++
  [0xF0, 0x80, 0x80, 0x80, 0xF0] ++ [0xE0, 0x90, 0x90, 0x90, 0xE0] ++
  [0xF0, 0x80, 0xF0, 0x80, 0xF0] ++ [0xF0, 0x80, 0xF0, 0x80, 0x80]

/-- The parameter `FONT` at the default the spec gives it (R33, decision D19): 80 bytes, glyph d at
`5*d`. PRESUMED (log 5): the spec takes these bytes from general knowledge; unsafe for claims about
what a font glyph looks like. No meaning of an instruction reads this constant. -/
def font : List Byte := fontLow ++ fontHigh

/-- The random source of R78, where the host has not said which byte it offers (log 1). Free: it has
no body, nothing is provable of its values. It is applied to a counter of State that moves on at
every use, so that two draws are two free values. -/
opaque randomByte : Nat → Byte

end Sys2Proof.Config
end

