-- ==== Sys2Proof/Machine/State.lean ====
section
/-! DEFINITION. The state of the machine (spec 10_state.md), the events of the host (00_scope.md R5),
the faults (60_exceptions.md R100), and the state after reset (10_state.md R23). -/

namespace Sys2Proof.Machine

/-- MEM (R22): the cells that differ from what an unlisted address reads as, addresses strictly
rising (`Memory.unlisted`, `Memory.wf` in Ops.lean). -/
abbrev Memory := List Host.Cell

/-- FB (R21): 32 rows of 64 one-bit cells. The cell `FB[cy*64 + cx]` of column `cx` and row `cy` is
bit `cx` of row `cy`. -/
abbrev Framebuffer := Vector (BitVec 64) 32

/-- The five events of R5. Each is atomic, and the host decides their order. -/
inductive Event where
  /-- `LOAD(rom)` (R121). -/
  | load (rom : List Byte)
  /-- `SETKEY(k, p)` (R110). -/
  | setKey (k : Fin 16) (p : Bool)
  /-- `STEP(rnd)` (R60). -/
  | step (rnd : Byte)
  /-- `TICK` (R108). -/
  | tick
  /-- `FBREAD` (R112). -/
  | fbRead
  deriving DecidableEq, Repr

/-- The faults of R100 with their `info`. A fault is the spec's own: the event changes no state, saves
nothing and is reported to the host (R101, R103), so stopping there leaves out no behaviour; safe. -/
inductive Fault where
  /-- Code 1: the fetch of any STEP, when pc > 4094 (R35); `info` is pc. Safe. -/
  | pcOutOfRange (info : Word)
  /-- Code 2: 2nnn, when SP = 16 (R64); `info` is pc, the address of the 2nnn. Safe. -/
  | stackOverflow (info : Word)
  /-- Code 3: 00EE, when SP = 0 (R62); `info` is pc, the address of the 00EE. Safe. -/
  | stackUnderflow (info : Word)
  /-- Code 4: Dxyn with n > 0, Fx33, Fx55, Fx65, when the highest address used is above 4095 (R36);
  `info` is I. Safe. -/
  | memoryOutOfRange (info : Word)
  /-- Code 5: Ex9E, ExA1, when `V[x]` > 15 (R92, R93); `info` is `V[x]`, zero-extended. Safe. -/
  | keyIndexOutOfRange (info : Word)
  /-- Code 6: LOAD only, when the image is longer than 3584 bytes (R122); no `info`. Safe. -/
  | romTooLarge
  deriving DecidableEq, Repr

/-- The reasons for which an instruction has no meaning. -/
inductive Refusal where
  /-- Only an arm of `exec` for an instruction not yet modelled would raise it; no arm does. Safe. -/
  | notModelled (mnemonic : String)
  deriving DecidableEq, Repr

/-- All the state of the machine. The first ten fields are the spec's (the summary table of
10_state.md); the last five are the model's own: what a STEP receives and reports (R9, R27, R111) and
the events the host has lined up (R5), as plain data. -/
structure State where
  /-- `V[0..15]`, 16 × 8 bits (R10); VF is `V[15]` (R12). -/
  v : Vector Byte 16
  /-- `pc`, 16 bits: the address of the instruction being executed (R13). -/
  pc : Word
  /-- `I`, 16 bits, the index register (R16). -/
  i : Word
  /-- `STACK[0..15]`, 16 × 16 bits (R17). -/
  stack : Vector Word 16
  /-- `SP`, the number of occupied slots, 0..16 (R17). -/
  sp : Fin 17
  /-- `DT`, the delay timer, 8 bits (R19). -/
  dt : Byte
  /-- `ST`, the sound timer, 8 bits (R19). -/
  st : Byte
  /-- `K[0..15]`, 16 × 1 bit, true = pressed (R20). -/
  keys : Vector Bool 16
  /-- `FB[0..2047]`, 2048 × 1 bit (R21). -/
  fb : Framebuffer
  /-- `MEM[0..4095]`, 4096 × 8 bits (R22). -/
  mem : Memory
  /-- The input `rnd` of the STEP in progress (R111): the byte the host offered with it, or `none`
  where the host has not said which, and a Cxnn then takes a free byte (log 1). -/
  rnd : Option Byte
  /-- The number of free bytes taken so far: `Config.randomByte` is applied to it (log 1). -/
  draws : Nat
  /-- The output `draw` of the latest STEP (R9, R107; log 3). -/
  draw : Bool
  /-- The output `unknown` of the latest STEP (R9, R107; log 3). -/
  unknown : Bool
  /-- The events the host has lined up, next first; when there is none, the host issues a STEP whose
  byte is free (log 2). -/
  pending : List Event
  deriving DecidableEq, Repr

/-- The state after `LOAD` of the empty image, the machine's only reset (R23, R24, R120): MEM lists
nothing, so it holds the font and zeros (R25). -/
def State.reset : State where
  v := Vector.replicate 16 0
  pc := 0x0200
  i := 0
  stack := Vector.replicate 16 0
  sp := 0
  dt := 0
  st := 0
  keys := Vector.replicate 16 false
  fb := Vector.replicate 32 0
  mem := []
  rnd := none
  draws := 0
  draw := false
  unknown := false
  pending := []

end Sys2Proof.Machine
end

