-- ==== Sys2Proof/Machine/Ops.lean ====
section
/-! DEFINITION. The named operations over memory, registers, the stack, the framebuffer and pc
(spec 00_scope.md R8, 20_memory.md R30 to R42, 40_step_and_control_flow.md R61), fetch (R35), and
taking a fault (60_exceptions.md R101). -/

namespace Sys2Proof.Machine

/-- How an instruction or an event ends. -/
abbrev Result := Host.Outcome State Fault Refusal

/-- TAKING A FAULT, the machine's one kind of exception (R101, R103): the event ends at once with the
fault and its `info` reported to the host. Nothing is saved, no mode changes, pc goes nowhere, and
there is no return from it (R104): the state stays the one before the event, so the outcome carries
none. -/
def raise {α : Type} (f : Fault) : Host.Outcome α Fault Refusal := .fault f

/-- The numeric code of a fault (R100). -/
def Fault.code : Fault → Nat
  | .pcOutOfRange _ => 1
  | .stackOverflow _ => 2
  | .stackUnderflow _ => 3
  | .memoryOutOfRange _ => 4
  | .keyIndexOutOfRange _ => 5
  | .romTooLarge => 6

/-- The 16-bit `info` of a fault; `RomTooLarge` has none (R100). -/
def Fault.info : Fault → Option Word
  | .pcOutOfRange w => some w
  | .stackOverflow w => some w
  | .stackUnderflow w => some w
  | .memoryOutOfRange w => some w
  | .keyIndexOutOfRange w => some w
  | .romTooLarge => none

/-! ### MEM (R30, R31, R36, R38) -/

/-- What an address that memory does not list reads as: the font below 0x050, zero above (R25, R31). -/
def Memory.unlisted (a : Nat) : Byte := Config.font.getD a 0

/-- `MEM[a]`, for an address `a` that the instruction has found in range (R36). -/
def Memory.read : Memory → Nat → Byte
  | [], a => Memory.unlisted a
  | (a', b) :: m, a => if a = a' then b else Memory.read m a

/-- Memory without an entry for `a`. -/
def Memory.erase (m : Memory) (a : Nat) : Memory := m.filter fun c => c.1 != a

/-- Memory with an entry for `a` before the first higher address. -/
def Memory.insert : Memory → Nat → Byte → Memory
  | [], a, b => [(a, b)]
  | c :: m, a, b => if a < c.1 then (a, b) :: c :: m else c :: Memory.insert m a b

/-- `MEM[a] <- b`, for an address `a` in range (R36). Writing what the address reads as unlisted
leaves it unlisted, so the canonical form is kept. -/
def Memory.write (m : Memory) (a : Nat) (b : Byte) : Memory :=
  if b = Memory.unlisted a then m.erase a else (m.erase a).insert a b

/-- Bytes written one after another at rising addresses from `a` (R32). -/
def Memory.writeBytes : Memory → Nat → List Byte → Memory
  | m, _, [] => m
  | m, a, b :: bs => Memory.writeBytes (m.write a b) (a + 1) bs

/-- The cells of an image laid at rising addresses from `a`, those that differ from what the address
reads as unlisted. -/
def Memory.ofBytes : Nat → List Byte → Memory
  | _, [] => []
  | a, b :: bs =>
    if b = Memory.unlisted a then Memory.ofBytes (a + 1) bs
    else (a, b) :: Memory.ofBytes (a + 1) bs

/-- The canonical form from address `lo` on: addresses strictly rise, lie in MEM, and no entry equals
what its address reads as unlisted. -/
def Memory.wfFrom : Nat → Memory → Bool
  | _, [] => true
  | lo, (a, b) :: m =>
    decide (lo ≤ a) && decide (a < Config.memSize) && b != Memory.unlisted a &&
      Memory.wfFrom (a + 1) m

/-- The canonical form of memory: equal memories are equal data. -/
def Memory.wf (m : Memory) : Bool := Memory.wfFrom 0 m

/-- `s` with MEM replaced. -/
def State.setMem (s : State) (m : Memory) : State := { s with mem := m }

/-- The check of the highest address of a data access before any access is made (R36): the addresses
are `I + k`, computed without wrapping, and the fault's `info` is I. -/
def State.checkTop (s : State) (last : Nat) (ok : Result) : Result :=
  if s.i.toNat + last > Config.memTop then raise (.memoryOutOfRange s.i) else ok

/-! ### General registers, I and the delay timer (R10, R16, R19) -/

/-- `V[x] <- b`. No register is hard-wired (R10). -/
def State.setV (s : State) (x : Reg) (b : Byte) : State := { s with v := s.v.set x b }

/-- All of `V` at once. -/
def State.setRegs (s : State) (v : Vector Byte 16) : State := { s with v := v }

/-- `I <- w`. -/
def State.setI (s : State) (w : Word) : State := { s with i := w }

/-- `DT <- b`. -/
def State.setDt (s : State) (b : Byte) : State := { s with dt := b }

/-! ### pc (R13, R61) -/

/-- `pc <- w`. -/
def State.setPc (s : State) (w : Word) : State := { s with pc := w }

/-- `advance`: `pc <- (pc + 2) mod 65536` (R61). -/
def State.advance (s : State) : State := { s with pc := s.pc + 2 }

/-- `advance`, and then `skip`, a further `pc <- (pc + 2) mod 65536`, when `c` holds (R61). -/
def State.advanceSkip (s : State) (c : Bool) : State :=
  if c then s.advance.advance else s.advance

/-! ### The call stack (R17, R62, R64) -/

/-- `STACK[SP] <- w`, then `SP <- SP + 1` (R64), where a slot is free. -/
def State.push (s : State) (w : Word) (h : s.sp.val ≠ 16) : State :=
  { s with
    stack := s.stack.set s.sp.val w (by omega)
    sp := ⟨s.sp.val + 1, by omega⟩ }

/-- `SP <- SP - 1`, then `pc <- STACK[SP]` (R62); called where SP is above 0. The slot keeps its
value. -/
def State.pop (s : State) : State :=
  { s with
    sp := ⟨s.sp.val - 1, by omega⟩
    pc := s.stack[s.sp.val - 1]'(by omega) }

/-! ### FB (R21) -/

/-- The cell of column `cx` and row `cy`. -/
def Framebuffer.cell (fb : Framebuffer) (cx : Fin 64) (cy : Fin 32) : Bool :=
  fb[cy].getLsbD cx.val

/-- The cell of column `cx` and row `cy` flipped, `FB[idx] <- FB[idx] ^ 1` (R89). -/
def Framebuffer.flip (fb : Framebuffer) (cx : Fin 64) (cy : Fin 32) : Framebuffer :=
  fb.set cy (fb[cy] ^^^ BitVec.twoPow 64 cx.val)

/-- All cells 0 (R88). -/
def Framebuffer.clear : Framebuffer := Vector.replicate 32 0

/-- The 2048 cells in index order, `FB[cy*64 + cx]`, row by row (R21, R112). -/
def Framebuffer.cells (fb : Framebuffer) : List Bool :=
  (List.range 2048).map fun j => fb.cell (Fin.ofNat 64 j) (Fin.ofNat 32 (j / 64))

/-- `s` with FB replaced. -/
def State.setFb (s : State) (fb : Framebuffer) : State := { s with fb := fb }

/-! ### What a STEP receives and reports (R9, R60, R78, R111) -/

/-- The start of a STEP (R60): `draw <- false; unknown <- false`, and the byte offered to it. -/
def State.beginStep (s : State) (rnd : Option Byte) : State :=
  { s with rnd := rnd, draw := false, unknown := false }

/-- `draw <- true`. -/
def State.reportDraw (s : State) : State := { s with draw := true }

/-- `unknown <- true`. -/
def State.reportUnknown (s : State) : State := { s with unknown := true }

/-- The random byte of this STEP (R78): the one the host offered, or a free byte (log 1). -/
def State.rndByte (s : State) : Byte := s.rnd.getD (Config.randomByte s.draws)

/-- A Cxnn has consumed its byte (R78): where the byte was a free one, the next is another. -/
def State.consumeRnd (s : State) : State :=
  { s with draws := if s.rnd.isNone then s.draws + 1 else s.draws }

/-! ### Fetch (R32, R35) -/

/-- `Fetch(pc)`: the word of the two bytes at pc and pc + 1, high byte first, or `PcOutOfRange` when
pc is above 4094. -/
def State.fetch (s : State) : Host.Outcome Word Fault Refusal :=
  if s.pc.toNat > Config.fetchTop then raise (.pcOutOfRange s.pc)
  else .next (wordOfBytes (s.mem.read s.pc.toNat) (s.mem.read (s.pc.toNat + 1)))

end Sys2Proof.Machine
end

