-- ==== Sys2Proof/Machine/Operands.lean ====
section
/-! DEFINITION. The operands of the instructions (spec 30_encoding.md R48): registers, immediates, and
the values formed from a register: a font address, decimal digits, a key number, a block of memory. -/

namespace Sys2Proof.Machine

/-- The register operand `V[x]` (R48). -/
def State.reg (s : State) (x : Reg) : Byte := s.v[x]

/-- `nnn` zero-extended to 16 bits, as it goes to pc or I (R48). -/
def address (nnn : Imm12) : Word := nnn.setWidth 16

/-- The register operand zero-extended to 16 bits (R81, R100). -/
def wide (b : Byte) : Word := b.setWidth 16

/-- The address of the glyph of digit `b`: `b * 5`, the whole byte and not its low nibble (R82). -/
def glyphAddress (b : Byte) : Word := BitVec.ofNat 16 (b.toNat * 5)

/-- The decimal digits of `b`: hundreds, tens, ones (R83). -/
def decimalDigits (b : Byte) : List Byte :=
  [BitVec.ofNat 8 (b.toNat / 100), BitVec.ofNat 8 (b.toNat / 10 % 10), BitVec.ofNat 8 (b.toNat % 10)]

/-- The first `x + 1` registers, V0 first (R84). -/
def State.regsUpTo (s : State) (x : Reg) : List Byte := s.v.toList.take (x.val + 1)

/-- The registers with `V[0..x]` loaded from the bytes at `I..I+x` (R85). -/
def State.loadUpTo (s : State) (x : Reg) : Vector Byte 16 :=
  Vector.ofFn fun j => if j.val ≤ x.val then s.mem.read (s.i.toNat + j.val) else s.v[j]

/-- `K[k]` (R20). -/
def State.key (s : State) (k : Fin 16) : Bool := s.keys[k]

/-- The least number of a pressed key, scanning in ascending order (R94). -/
def State.leastKey (s : State) : Option (Fin 16) := (List.finRange 16).find? fun j => s.key j

end Sys2Proof.Machine
end

