-- ==== Sys2Proof/Machine/Alu.lean ====
section
/-! DEFINITION. Register load, arithmetic, logic and random (spec 41_alu.md R70 to R79). All
arithmetic is on unsigned bytes modulo 256 (R79). -/

namespace Sys2Proof.Machine

/-- `V[x] <- b`, then `advance`: the form of every instruction of this family. -/
def State.result (s : State) (x : Reg) (b : Byte) : Result := .next (s.setV x b).advance

/-- 6xnn (R70). -/
def execLdImm (x : Reg) (nn : Byte) (s : State) : Result := s.result x nn

/-- 7xnn (R71): no flag. -/
def execAddImm (x : Reg) (nn : Byte) (s : State) : Result := s.result x (s.reg x + nn)

/-- 8xy0 (R72). -/
def execLdReg (x y : Reg) (s : State) : Result := s.result x (s.reg y)

/-- 8xy1 (R73): no flag. -/
def execOrReg (x y : Reg) (s : State) : Result := s.result x (s.reg x ||| s.reg y)

/-- 8xy2 (R74): no flag. -/
def execAndReg (x y : Reg) (s : State) : Result := s.result x (s.reg x &&& s.reg y)

/-- 8xy3 (R75): no flag. -/
def execXorReg (x y : Reg) (s : State) : Result := s.result x (s.reg x ^^^ s.reg y)

/-- 8xy4 (R76): the flag is written first, and the sum reads the registers again, so an operand VF is
the new flag. -/
def execAddReg (x y : Reg) (s : State) : Result :=
  let s1 := s.setV VF (carryFlag (s.reg x) (s.reg y))
  s1.result x (s1.reg x + s1.reg y)

/-- 8xy5 (R77): the flag is written first, and the difference reads the registers again. The
`256 - V[y] + V[x]` of the borrow case is the difference modulo 256 (R79). -/
def execSubReg (x y : Reg) (s : State) : Result :=
  let s1 := s.setV VF (noBorrowFlag (s.reg x) (s.reg y))
  s1.result x (s1.reg x - s1.reg y)

/-- Cxnn (R78): the one instruction that reads the random byte of the STEP. -/
def execRnd (x : Reg) (nn : Byte) (s : State) : Result := s.consumeRnd.result x (nn &&& s.rndByte)

end Sys2Proof.Machine
end

