-- ==== Sys2Proof/Machine/ControlFlow.lean ====
section
/-! DEFINITION. Return, jump, call and the register skips (spec 40_step_and_control_flow.md R62 to
R68). -/

namespace Sys2Proof.Machine

/-- 00EE (R62): the popped slot holds the address of the call, and the advance moves past it. -/
def execRet (s : State) : Result :=
  if s.sp.val = 0 then raise (.stackUnderflow s.pc) else .next s.pop.advance

/-- 1nnn (R63): no advance. -/
def execJp (nnn : Imm12) (s : State) : Result := .next (s.setPc (address nnn))

/-- 2nnn (R64): pushes the address of the call itself; no advance. -/
def execCall (nnn : Imm12) (s : State) : Result :=
  if h : s.sp.val = 16 then raise (.stackOverflow s.pc)
  else .next ((s.push s.pc h).setPc (address nnn))

/-- 3xnn (R65). -/
def execSeImm (x : Reg) (nn : Byte) (s : State) : Result := .next (s.advanceSkip (s.reg x == nn))

/-- 4xnn (R66). -/
def execSneImm (x : Reg) (nn : Byte) (s : State) : Result := .next (s.advanceSkip (s.reg x != nn))

/-- 5xy0 (R67). -/
def execSeReg (x y : Reg) (s : State) : Result := .next (s.advanceSkip (s.reg x == s.reg y))

/-- 9xy0 (R68). -/
def execSneReg (x y : Reg) (s : State) : Result := .next (s.advanceSkip (s.reg x != s.reg y))

end Sys2Proof.Machine
end

