-- ==== Sys2Proof/Machine/Display.lean ====
section
/-! DEFINITION. Clearing the framebuffer and drawing a sprite (spec 43_display.md R88, R89). -/

namespace Sys2Proof.Machine

/-- A framebuffer being drawn on, and whether a lit cell has gone dark. -/
abbrev Canvas := Framebuffer × Bool

/-- One pixel of a sprite (R89): the coordinates wrap, column modulo 64 and row modulo 32; a lit cell
about to go dark is a collision; the cell is flipped. -/
def Canvas.pixel (c : Canvas) (px py : Nat) : Canvas :=
  let cx := Fin.ofNat 64 px
  let cy := Fin.ofNat 32 py
  (c.1.flip cx cy, c.2 || c.1.cell cx cy)

/-- Pixel column `col` of a sprite byte: bit 7 is the leftmost (R89). -/
def spriteBit (b : Byte) (col : Nat) : Bool := b.getLsbD (7 - col)

/-- One row of a sprite, columns left to right (R89): a 0 bit leaves its cell alone. -/
def Canvas.row (b : Byte) (vx py : Nat) (c : Canvas) : Canvas :=
  (List.range 8).foldl (fun c col => if spriteBit b col then c.pixel (vx + col) py else c) c

/-- The `n` rows of the sprite at address `base`, top to bottom (R89). -/
def Canvas.sprite (m : Memory) (base vx vy n : Nat) (c : Canvas) : Canvas :=
  (List.range n).foldl (fun c r => c.row (m.read (base + r)) vx (vy + r)) c

/-- 00E0 (R88): VF is not written, and `draw` is true whatever the framebuffer held. -/
def execCls (s : State) : Result := .next ((s.setFb Framebuffer.clear).reportDraw).advance

/-- The effect of Dxyn (R89): the coordinates are read before VF is reset, VF ends as the collision
flag, `draw` is true. -/
def State.drawSprite (s : State) (x y : Reg) (n : Nat) : State :=
  let c := Canvas.sprite s.mem s.i.toNat (s.reg x).toNat (s.reg y).toNat n (s.fb, false)
  (((s.setV VF (collisionFlag c.2)).setFb c.1).reportDraw).advance

/-- Dxyn (R89): the highest address of the sprite is checked first; with n = 0 no byte is read and no
check is made. -/
def execDrw (x y : Reg) (n : Fin 16) (s : State) : Result :=
  if n.val = 0 then .next (s.drawSprite x y 0)
  else s.checkTop (n.val - 1) (.next (s.drawSprite x y n.val))

end Sys2Proof.Machine
end

