-- ==== Sys2Proof/Machine/IndexMemory.lean ====
section
/-! DEFINITION. The index register and the memory instructions (spec 42_index_and_memory.md R80 to
R85). No access changes I, and no flag is written. -/

namespace Sys2Proof.Machine

/-- Annn (R80). -/
def execLdI (nnn : Imm12) (s : State) : Result := .next (s.setI (address nnn)).advance

/-- Fx1E (R81): modulo 65536, no flag, no range check. -/
def execAddI (x : Reg) (s : State) : Result := .next (s.setI (s.i + wide (s.reg x))).advance

/-- Fx29 (R82). -/
def execLdFont (x : Reg) (s : State) : Result := .next (s.setI (glyphAddress (s.reg x))).advance

/-- Bytes stored at rising addresses from I, then `advance` (R83, R84). -/
def State.storeAtI (s : State) (bs : List Byte) : Result :=
  .next (s.setMem (s.mem.writeBytes s.i.toNat bs)).advance

/-- Fx33 (R83). -/
def execLdBcd (x : Reg) (s : State) : Result :=
  s.checkTop 2 (s.storeAtI (decimalDigits (s.reg x)))

/-- Fx55 (R84). -/
def execStoreRegs (x : Reg) (s : State) : Result :=
  s.checkTop x.val (s.storeAtI (s.regsUpTo x))

/-- Fx65 (R85). -/
def execLoadRegs (x : Reg) (s : State) : Result :=
  s.checkTop x.val (.next (s.setRegs (s.loadUpTo x)).advance)

end Sys2Proof.Machine
end

