-- ==== Sys2Proof/Machine/KeysTimers.lean ====
section
/-! DEFINITION. The key and timer instructions (spec 44_keys_and_timers.md R92 to R96). -/

namespace Sys2Proof.Machine

/-- The key skips (R92, R93): the whole byte `V[x]` is the key number, not its low nibble, and the
skip is taken when that key is in the state `level`. -/
def State.keySkip (s : State) (x : Reg) (level : Bool) : Result :=
  if h : (s.reg x).toNat > 15 then raise (.keyIndexOutOfRange (wide (s.reg x)))
  else .next (s.advanceSkip (s.key ⟨(s.reg x).toNat, by omega⟩ == level))

/-- Ex9E (R92). -/
def execSkp (x : Reg) (s : State) : Result := s.keySkip x true

/-- ExA1 (R93). -/
def execSknp (x : Reg) (s : State) : Result := s.keySkip x false

/-- Fx07 (R95). -/
def execLdFromDt (x : Reg) (s : State) : Result := .next (s.setV x s.dt).advance

/-- Fx0A (R94): with no key pressed nothing changes, pc included, so the next STEP is the same Fx0A
again; otherwise the least pressed key is stored. -/
def execLdKey (x : Reg) (s : State) : Result :=
  match s.leastKey with
  | none => .next s
  | some j => .next (s.setV x (BitVec.ofNat 8 j.val)).advance

/-- Fx15 (R96). -/
def execLdToDt (x : Reg) (s : State) : Result := .next (s.setDt (s.reg x)).advance

end Sys2Proof.Machine
end

