-- ==== Sys2Proof/Machine/UnknownOpcode.lean ====
section
/-! DEFINITION. The unknown-opcode path (spec 45_unknown_opcode.md R98). -/

namespace Sys2Proof.Machine

/-- Any word outside the opcode map (R98): a two-byte no-operation that reports itself, whatever the
word. It is never a fault (R53). -/
def execUnknown (_w : Word) (s : State) : Result := .next s.reportUnknown.advance

end Sys2Proof.Machine
end

