-- ==== Sys2Proof/Machine/Events.lean ====
section
/-! DEFINITION. The host's events other than STEP: TICK (spec 60_exceptions.md R108), SETKEY (R110),
FBREAD (R112) and LOAD (70_reset_and_hazards.md R121, R122). -/

namespace Sys2Proof.Machine

/-- A timer counts down by 1 and stops at 0 (R19, R108). -/
def countDown (b : Byte) : Byte := if b.toNat > 0 then b - 1 else b

/-- TICK (R108): both timers, independently; nothing else. -/
def State.tick (s : State) : State := { s with dt := countDown s.dt, st := countDown s.st }

/-- SETKEY(k, p) (R110): `K[k] <- p`; nothing else. -/
def State.setKey (s : State) (k : Fin 16) (p : Bool) : State := { s with keys := s.keys.set k p }

/-- FBREAD (R112): the 2048 cells in index order; it changes nothing. -/
def State.fbRead (s : State) : List Bool := s.fb.cells

/-- MEM after `LOAD` (R25): the font table at 0, the image at 0x200, zero elsewhere. -/
def imageMemory (font : Vector Byte 80) (rom : List Byte) : Memory :=
  Memory.ofBytes 0 font.toList ++ Memory.ofBytes Config.progBase rom

/-- `LOAD` with the parameter `FONT` as an argument (R33, R121): every item of state is created anew.
The events still lined up and the count of free bytes taken are the host's side and stay (log 13). -/
def State.loadWith (font : Vector Byte 80) (rom : List Byte) (s : State) : Result :=
  if rom.length > Config.romMax then raise .romTooLarge
  else .next { State.reset with
    mem := imageMemory font rom, draws := s.draws, pending := s.pending }

/-- The default `FONT` as 80 bytes (R33). -/
def defaultFont : Vector Byte 80 := ⟨Config.font.toArray, rfl⟩

/-- `LOAD(rom)` (R121, R122). -/
def State.load (rom : List Byte) (s : State) : Result := s.loadWith defaultFont rom

end Sys2Proof.Machine
end

