-- ==== Sys2Proof/Machine/Step.lean ====
section
/-! DEFINITION. STEP (spec 40_step_and_control_flow.md R60), the five events (00_scope.md R5), and one
step of the machine: the next event. -/

namespace Sys2Proof.Machine

/-- `STEP(rnd)` (R60): clear the outputs, fetch, decode, execute. `none` is a byte the host has not
named (log 1). -/
def stepWith (rnd : Option Byte) (s : State) : Host.Outcome State Fault Refusal :=
  let s0 := s.beginStep rnd
  match s0.fetch with
  | .next w => exec (decode w) s0
  | .fault f => .fault f
  | .refused r => .refused r

/-- One event (R5). -/
def applyEvent (e : Event) (s : State) : Host.Outcome State Fault Refusal :=
  match e with
  | .load rom => s.load rom
  | .setKey k p => .next (s.setKey k p)
  | .step rnd => stepWith (some rnd) s
  | .tick => .next s.tick
  | .fbRead => .next s

/-- One step of the machine is one event (R5): the next one the host has lined up, or, where there is
none, a STEP with a free byte (log 2). -/
def step (s : State) : Host.Outcome State Fault Refusal :=
  match s.pending with
  | [] => stepWith none s
  | e :: rest => applyEvent e { s with pending := rest }

/-- The result of a STEP (R9): nothing else leaves the core during a step. -/
inductive StepResult where
  /-- The instruction completed, or an Fx0A is waiting. -/
  | ok (draw unknown : Bool)
  /-- A fault, with its `info`; no state was changed. -/
  | error (fault : Fault)
  deriving DecidableEq, Repr

/-- The result a `STEP(rnd)` reports to the host (R9); `none` only where it is refused, which no step
is. -/
def stepResult (rnd : Byte) (s : State) : Option StepResult :=
  match stepWith (some rnd) s with
  | .next t => some (.ok t.draw t.unknown)
  | .fault f => some (.error f)
  | .refused _ => none

/-- The state after an event. A fault changes no state whatever and the core does not stop itself
(R101): the host may go on from the same state, which is how a `LOAD` revives it (R104, R121). -/
def State.after (e : Event) (s : State) : State :=
  match applyEvent e s with
  | .next t => t
  | .fault _ => s
  | .refused _ => s

/-- The state after a sequence of events (R5, R40). -/
def runEvents (es : List Event) (s : State) : State := es.foldl (fun s e => s.after e) s

/-- `s` with the table word `w` of `nbits` bits stored where the next step fetches, high byte first
(R32): at pc, or at 0x200 with pc there where pc is out of range of a fetch. Nothing is lined up
before that step (log 14). -/
def State.withFetchWord (s : State) (nbits w : Nat) : State :=
  let pc := if s.pc.toNat > Config.fetchTop then BitVec.ofNat 16 Config.progBase else s.pc
  { s with
    pc := pc
    mem := s.mem.writeBytes pc.toNat (bytesOfWord (BitVec.ofNat 16 (w % 2 ^ nbits)))
    pending := [] }

end Sys2Proof.Machine
end

