-- ==== Sys2Proof/Machine/Schedule.lean ====
section
/-! DEFINITION. The reference schedule (spec 60_exceptions.md R109): the order in which the source's host
issues the events of one frame. Every other order is as legal; the step does not know of the schedule. -/

namespace Sys2Proof.Machine

/-- What the host brings to one frame (R109): the keys whose state changed, and the byte its STEP
offers. -/
structure FrameInput where
  keys : List (Fin 16 × Bool)
  rnd : Byte
  deriving DecidableEq, Repr

/-- The zero or more SETKEY events that open a frame. -/
def FrameInput.keyEvents (f : FrameInput) : List Event := f.keys.map fun c => .setKey c.1 c.2

/-- The result of a `STEP(rnd)` in `s` is `Ok` with `draw = true` (R9, R107). -/
def reportsDraw (rnd : Byte) (s : State) : Bool :=
  match stepResult rnd s with
  | some (.ok draw _) => draw
  | _ => false

/-- FBREAD, where the STEP reported `draw = true` (R109, R112). -/
def presentation (draw : Bool) : List Event := if draw then [.fbRead] else []

/-- One frame of the reference schedule from `s` (R109): the SETKEYs, one STEP, FBREAD if that STEP
reports `draw = true`, one TICK. -/
def referenceFrame (f : FrameInput) (s : State) : List Event :=
  f.keyEvents ++ [.step f.rnd] ++ presentation (reportsDraw f.rnd (runEvents f.keyEvents s)) ++ [.tick]

/-- The state after one frame. -/
def runFrame (f : FrameInput) (s : State) : State := runEvents (referenceFrame f s) s

/-- The state after a sequence of frames. -/
def runFrames (fs : List FrameInput) (s : State) : State := fs.foldl (fun s f => runFrame f s) s

end Sys2Proof.Machine
end

