-- ==== Sys2Proof/WellFormed.lean ====
section
/-! DEFINITION. Well-formed instructions. Every value of every field is legal (spec 30_encoding.md
R53), so the types of the operands check them; what is left to check is that an unknown opcode
carries a word of the unknown-opcode space (R52). -/

namespace Sys2Proof

/-- The check on an instruction as a term: an `unknown` names a word that no row of R51 matches. -/
def Instr.wf : Instr → Bool
  | .unknown w => inUnknownSpace w
  | _ => true

end Sys2Proof
end

