-- ==== Sys2Proof/Safety.lean ====
section
/-! DEFINITION. What the statements about the machine speak of: when an instruction faults (spec
60_exceptions.md R100), which registers it may write (10_state.md R10, R12), the form of a result,
the invariant of every reachable state (70_reset_and_hazards.md R133), and safe runs (R129). -/

namespace Sys2Proof.Machine

/-- The table of R100 for the execute stage: the fault an instruction raises in a state, if any. -/
def faultOf : Instr → State → Option Fault
  | .ret, s => if s.sp.val = 0 then some (.stackUnderflow s.pc) else none
  | .call _, s => if s.sp.val = 16 then some (.stackOverflow s.pc) else none
  | .drw _ _ n, s =>
    if n.val > 0 ∧ s.i.toNat + n.val - 1 > 4095 then some (.memoryOutOfRange s.i) else none
  | .ldBcd _, s => if s.i.toNat + 2 > 4095 then some (.memoryOutOfRange s.i) else none
  | .storeRegs x, s => if s.i.toNat + x.val > 4095 then some (.memoryOutOfRange s.i) else none
  | .loadRegs x, s => if s.i.toNat + x.val > 4095 then some (.memoryOutOfRange s.i) else none
  | .skp x, s => if s.v[x].toNat > 15 then some (.keyIndexOutOfRange (s.v[x].setWidth 16)) else none
  | .sknp x, s => if s.v[x].toNat > 15 then some (.keyIndexOutOfRange (s.v[x].setWidth 16)) else none
  | _, _ => none

/-- The registers an instruction may write: its destination, and VF where it writes the flag (R12). -/
def mayWrite : Instr → Reg → Bool
  | .ldImm x _, r => r == x
  | .addImm x _, r => r == x
  | .ldReg x _, r => r == x
  | .orReg x _, r => r == x
  | .andReg x _, r => r == x
  | .xorReg x _, r => r == x
  | .addReg x _, r => r == x || r == VF
  | .subReg x _, r => r == x || r == VF
  | .rnd x _, r => r == x
  | .drw _ _ _, r => r == VF
  | .ldFromDt x, r => r == x
  | .ldKey x, r => r == x
  | .loadRegs x, r => decide (r ≤ x)
  | _, _ => false

/-- `i` completes in `s` with the registers `f` and pc + 2, and changes nothing else of the state. -/
def WritesRegs (i : Instr) (s : State) (f : Reg → Byte) : Prop :=
  ∃ v', exec i s = .next { s with v := v', pc := s.pc + 2 } ∧ ∀ r : Reg, v'[r] = f r

/-- `i` completes in `s` with `b` in `V[x]` and pc + 2, and changes nothing else of the state. -/
def WritesReg (i : Instr) (s : State) (x : Reg) (b : Byte) : Prop :=
  WritesRegs i s fun r => if r = x then b else s.v[r]

/-- The sprite of `n` rows at I, drawn at (`V[x]`, `V[y]`), has a 1 bit on the cell (R89): bit
`7 - col` of its row `row`, with the column taken modulo 64 and the row modulo 32. -/
def Covers (s : State) (x y : Reg) (n : Nat) (cx : Fin 64) (cy : Fin 32) : Prop :=
  ∃ row col : Nat, row < n ∧ col < 8 ∧ (s.mem.read (s.i.toNat + row)).getLsbD (7 - col) = true ∧
    cx.val = (s.v[x].toNat + col) % 64 ∧ cy.val = (s.v[y].toNat + row) % 32

/-- The invariant of R133, in the clauses a state can show: the sound timer is 0, pc is at most 4098, and
every occupied slot holds an address that passed a fetch. (`0 <= SP <= 16` and the ranges of the
registers and cells are facts of their types.) The clause `mem`, that memory is in canonical form, is
the model's own (log 15) and no part of R133. -/
structure State.Inv (s : State) : Prop where
  mem : s.mem.wf = true
  soundTimer : s.st = 0
  pc : s.pc.toNat ≤ 4098
  slots : ∀ j : Fin 16, j.val < s.sp.val → s.stack[j].toNat ≤ 4094

/-- The states that a sequence of events leads to from a successful `LOAD` (R133). -/
inductive Reachable : State → Prop where
  | load (font : Vector Byte 80) (rom : List Byte) (s t : State) :
      s.loadWith font rom = .next t → Reachable t
  | event (e : Event) (s : State) : Reachable s → Reachable (s.after e)

/-- Under the reference schedule from `s`, no frame's STEP fetches an Fx15: nothing sets the delay timer
while the frames run (R109). -/
def NoDelaySet : List FrameInput → State → Prop
  | [], _ => True
  | f :: fs, s =>
    (∀ (w : Word) (x : Reg), s.fetch = .next w → decode w ≠ .ldToDt x) ∧ NoDelaySet fs (runFrame f s)

/-- A run in which no event faults: what R128 (f) and R129 ask of the host and the program. -/
def SafeRun : List Event → State → Prop
  | [], _ => True
  | e :: es, s => ∃ t, applyEvent e s = .next t ∧ SafeRun es t

end Sys2Proof.Machine
end

