-- ==== Sys2Proof/Certificates/Slice0/Obligations.lean ====
section
/-! DEFINITION. The statements about the machine, one per obligation. Each docstring names the rule of
the spec it formalises. A step's result is written as the state before with the fields that change, so
every field not named is unchanged. -/

open Sys2Proof Sys2Proof.Machine

/-! ### Encoding (spec 30_encoding.md) -/

/-- R47, R49, R51, R52: every operand at every value its field admits survives encoding and decoding.
That an unknown opcode carries its word, and so has an encoding, is the model's choice (log 10). -/
def Obligations.EncodedInstructionDecodesBack : Prop :=
  ∀ i : Instr, i.wf = true → decode (encode i) = i

/-- R45, R47, R49, R51 for the words of the opcode map: each is the encoding of the instruction it
decodes to, which is well-formed, so no two of them are one instruction. For the 26 462 unknown words
the same holds by the model's choice alone: its constructor `unknown` carries the word (log 10), where
the spec's UNKNOWN has no operand. -/
def Obligations.EveryWordIsTheEncodingOfItsInstruction : Prop :=
  ∀ w : Word, (decode w).wf = true ∧ encode (decode w) = w

/-- R49, R51: the decoder selects row r exactly on the words with `(w & mask) = match`, the rows are
disjoint, and a word that none matches is an unknown opcode. -/
def Obligations.DecoderSelectsTheMatchingRow : Prop :=
  (∀ w : Word, ∀ r ∈ opcodeMap, (w &&& r.mask = r.mtch ↔ (decode w).rowNumber = some r.num)) ∧
  (∀ w : Word, ∀ r ∈ opcodeMap, ∀ r' ∈ opcodeMap,
    w &&& r.mask = r.mtch → w &&& r'.mask = r'.mtch → r = r') ∧
  (∀ w : Word, (∀ r ∈ opcodeMap, w &&& r.mask ≠ r.mtch) ↔ decode w = .unknown w)

/-- R50: the fixed nibbles of 00E0, 00EE, 5xy0 and 9xy0 are matched exactly. -/
def Obligations.FixedNibblesAreMatchedExactly : Prop :=
  (∀ w : Word, decode w = .cls ↔ w = 0x00E0) ∧
  (∀ w : Word, decode w = .ret ↔ w = 0x00EE) ∧
  (∀ (w : Word) (x y : Reg), decode w = .seReg x y → w &&& 0x000F = 0) ∧
  (∀ (w : Word) (x y : Reg), decode w = .sneReg x y → w &&& 0x000F = 0) ∧
  decode 0x01E0 = .unknown 0x01E0 ∧ decode 0x0FEE = .unknown 0x0FEE ∧
  decode 0x5121 = .unknown 0x5121 ∧ decode 0x9AB7 = .unknown 0x9AB7

/-- R52: the unknown opcodes are the words listed by high nibble. -/
def Obligations.UnknownSpaceIsTheListedWords : Prop :=
  ∀ w : Word, decode w = .unknown w ↔
    (w.toNat / 4096 = 0x0 ∧ w ≠ 0x00E0 ∧ w ≠ 0x00EE) ∨
    (w.toNat / 4096 = 0x5 ∧ w.toNat % 16 ≠ 0) ∨
    (w.toNat / 4096 = 0x8 ∧ 6 ≤ w.toNat % 16) ∨
    (w.toNat / 4096 = 0x9 ∧ w.toNat % 16 ≠ 0) ∨
    w.toNat / 4096 = 0xB ∨
    (w.toNat / 4096 = 0xE ∧ w.toNat % 256 ∉ [0x9E, 0xA1]) ∨
    (w.toNat / 4096 = 0xF ∧ w.toNat % 256 ∉ [0x07, 0x0A, 0x15, 0x1E, 0x29, 0x33, 0x55, 0x65])

/-- R47, R51: words written out from the patterns decode to their instructions. -/
def Obligations.WordsWrittenFromThePatternsDecode : Prop :=
  decode 0b0001_1000_0101_1000 = .jp 0x858 ∧ decode 0b0011_0011_0011_0100 = .seImm 3 0x34 ∧
  decode 0b1000_0010_0111_0100 = .addReg 2 7 ∧ decode 0b1101_0001_0010_0101 = .drw 1 2 5 ∧
  decode 0b1111_0010_0101_0101 = .storeRegs 2 ∧ decode 0b1110_0101_1010_0001 = .sknp 5

/-! ### The step (spec 40_step_and_control_flow.md, 20_memory.md) -/

/-- R60: a STEP clears the outputs, takes its byte, and executes the word at pc. Where no event is
lined up the byte is left free (log 1, log 2). -/
def Obligations.StepRunsTheDecodedInstruction : Prop :=
  ∀ s : State, s.pc.toNat ≤ 4094 →
    (s.pending = [] → step s =
      exec (decode (wordOfBytes (s.mem.read s.pc.toNat) (s.mem.read (s.pc.toNat + 1))))
        { s with rnd := none, draw := false, unknown := false }) ∧
    (∀ (r : Byte) (rest : List Event), s.pending = .step r :: rest → step s =
      exec (decode (wordOfBytes (s.mem.read s.pc.toNat) (s.mem.read (s.pc.toNat + 1))))
        { s with pending := rest, rnd := some r, draw := false, unknown := false })

/-- R35: a fetch gives `MEM[pc]*256 + MEM[pc+1]` for pc at most 4094, odd or even, and faults above. -/
def Obligations.FetchIsTwoBytesHighByteFirst : Prop :=
  ∀ s : State,
    (s.pc.toNat ≤ 4094 → ∃ w, s.fetch = .next w ∧
      w.toNat = (s.mem.read s.pc.toNat).toNat * 256 + (s.mem.read (s.pc.toNat + 1)).toNat) ∧
    (s.pc.toNat > 4094 → s.fetch = .fault (.pcOutOfRange s.pc))

/-- R15, R35: a STEP at a pc above 4094 raises `PcOutOfRange(pc)`, whatever stands in memory. -/
def Obligations.StepAbove4094Faults : Prop :=
  ∀ s : State, s.pc.toNat > 4094 →
    (s.pending = [] → step s = .fault (.pcOutOfRange s.pc)) ∧
    (∀ (r : Byte) (rest : List Event), s.pending = .step r :: rest →
      step s = .fault (.pcOutOfRange s.pc))

/-- R5: one step is one event, in the order the host lined them up (the lining up is the model's, log
2); the events of the host land between instructions. -/
def Obligations.StepTakesTheNextEvent : Prop :=
  ∀ (s : State) (rest : List Event),
    (s.pending = .tick :: rest → step s = .next ({ s with pending := rest } : State).tick) ∧
    (∀ k p, s.pending = .setKey k p :: rest →
      step s = .next (({ s with pending := rest } : State).setKey k p)) ∧
    (∀ rom, s.pending = .load rom :: rest →
      step s = ({ s with pending := rest } : State).loadWith defaultFont rom) ∧
    (s.pending = .fbRead :: rest → step s = .next { s with pending := rest })

/-- R42: a fetch right after an Fx55 sees the bytes it stored, each of the two on its own. -/
def Obligations.StoreIsSeenByTheNextFetch : Prop :=
  ∀ (s : State) (x j k : Reg), s.i.toNat + x.val ≤ 4095 → j ≤ x → k ≤ x → k.val = j.val + 1 →
    s.pc.toNat + 2 = s.i.toNat + j.val →
    ∃ t, exec (.storeRegs x) s = .next t ∧ t.fetch = .next (wordOfBytes s.v[j] s.v[k])

/-! ### Control transfer (spec 40_step_and_control_flow.md) -/

/-- R62: 00EE pops the address of the call and advances past it, the slot keeping its value; with an
empty stack it faults. -/
def Obligations.ReturnPopsAndAdvances : Prop :=
  ∀ s : State,
    (∀ n : Fin 16, s.sp.val = n.val + 1 →
      exec .ret s = .next { s with sp := n.castSucc, pc := s.stack[n] + 2 }) ∧
    (s.sp.val = 0 → exec .ret s = .fault (.stackUnderflow s.pc))

/-- R63: 1nnn sets pc to nnn, zero-extended, with no advance, and changes nothing else. -/
def Obligations.JumpSetsPcExactly : Prop :=
  ∀ (s : State) (nnn : Imm12), ∃ w : Word, exec (.jp nnn) s = .next { s with pc := w } ∧
    w.toNat = nnn.toNat

/-- R64: 2nnn pushes the address of the call itself and jumps; with 16 slots occupied it faults. -/
def Obligations.CallPushesItsOwnAddress : Prop :=
  ∀ (s : State) (nnn : Imm12),
    (∀ n : Fin 16, s.sp.val = n.val → ∃ (w : Word) (st' : Vector Word 16),
      exec (.call nnn) s = .next { s with stack := st', sp := n.succ, pc := w } ∧
      w.toNat = nnn.toNat ∧ ∀ j : Fin 16, st'[j] = if j = n then s.pc else s.stack[j]) ∧
    (s.sp.val = 16 → exec (.call nnn) s = .fault (.stackOverflow s.pc))

/-- R62, R64: a return from a call resumes at the instruction after the call with the stack pointer
as it was, whatever the subroutine did to the rest of the state. -/
def Obligations.ReturnResumesAfterTheCall : Prop :=
  ∀ (s : State) (nnn : Imm12), s.sp.val < 16 → ∃ t, exec (.call nnn) s = .next t ∧
    ∀ u : State, u.stack = t.stack → u.sp = t.sp →
      exec .ret u = .next { u with sp := s.sp, pc := s.pc + 2 }

/-- R65, R66, R67, R68: the register skips move pc by 4 when their condition holds, else by 2, and
change nothing else; 5xx0 always skips and 9xx0 never. -/
def Obligations.RegisterSkipsMovePcByTwoOrFour : Prop :=
  ∀ (s : State) (x y : Reg) (nn : Byte),
    exec (.seImm x nn) s = .next { s with pc := s.pc + if s.v[x] = nn then 4 else 2 } ∧
    exec (.sneImm x nn) s = .next { s with pc := s.pc + if s.v[x] ≠ nn then 4 else 2 } ∧
    exec (.seReg x y) s = .next { s with pc := s.pc + if s.v[x] = s.v[y] then 4 else 2 } ∧
    exec (.sneReg x y) s = .next { s with pc := s.pc + if s.v[x] ≠ s.v[y] then 4 else 2 } ∧
    exec (.seReg x x) s = .next { s with pc := s.pc + 4 } ∧
    exec (.sneReg x x) s = .next { s with pc := s.pc + 2 }

/-! ### Registers and arithmetic (spec 41_alu.md) -/

/-- R70, R72: 6xnn loads nn and 8xy0 copies `V[y]`; nothing but `V[x]` and pc changes. -/
def Obligations.LoadAndCopyWriteOneRegister : Prop :=
  ∀ (s : State) (x y : Reg) (nn : Byte),
    WritesReg (.ldImm x nn) s x nn ∧ WritesReg (.ldReg x y) s x s.v[y]

/-- R71: 7xnn adds modulo 256 and writes no flag; x = 15 is an ordinary sum into VF. -/
def Obligations.AddImmediateWrapsWithoutFlag : Prop :=
  ∀ (s : State) (x : Reg) (nn : Byte),
    WritesReg (.addImm x nn) s x (BitVec.ofNat 8 ((s.v[x].toNat + nn.toNat) % 256))

/-- R73, R74, R75: OR, AND and XOR work bit by bit on `V[x]` and `V[y]` and write no flag. -/
def Obligations.LogicIsBitwiseWithoutFlag : Prop :=
  ∀ (s : State) (x y : Reg), ∃ o a e : Byte,
    WritesReg (.orReg x y) s x o ∧ WritesReg (.andReg x y) s x a ∧ WritesReg (.xorReg x y) s x e ∧
    ∀ k : Fin 8, o[k] = (s.v[x][k] || s.v[y][k]) ∧ a[k] = (s.v[x][k] && s.v[y][k]) ∧
      e[k] = (s.v[x][k] ^^ s.v[y][k])

/-- R76: 8xy4, with VF named by neither operand and in each case that names it. -/
def Obligations.AddWritesTheCarryThenTheSum : Prop :=
  ∀ (s : State) (x y : Reg),
    (x ≠ 15 → y ≠ 15 → WritesRegs (.addReg x y) s fun r =>
      if r = x then BitVec.ofNat 8 ((s.v[x].toNat + s.v[y].toNat) % 256)
      else if r = 15 then (if s.v[x].toNat + s.v[y].toNat > 255 then 1 else 0) else s.v[r]) ∧
    (x ≠ 15 → y = 15 → ∃ c : Byte,
      (c = if s.v[x].toNat + s.v[y].toNat > 255 then 1 else 0) ∧
      WritesRegs (.addReg x y) s fun r =>
        if r = x then BitVec.ofNat 8 ((s.v[x].toNat + c.toNat) % 256)
        else if r = 15 then c else s.v[r]) ∧
    (x = 15 → y ≠ 15 → ∃ c : Byte,
      (c = if s.v[x].toNat + s.v[y].toNat > 255 then 1 else 0) ∧
      WritesReg (.addReg x y) s 15 (BitVec.ofNat 8 ((c.toNat + s.v[y].toNat) % 256))) ∧
    (x = 15 → y = 15 → WritesReg (.addReg x y) s 15 (if s.v[x].toNat ≥ 128 then 2 else 0))

/-- R77: 8xy5, with VF named by neither operand and in each case that names it. -/
def Obligations.SubtractWritesNoBorrowThenTheDifference : Prop :=
  ∀ (s : State) (x y : Reg),
    (x ≠ 15 → y ≠ 15 → WritesRegs (.subReg x y) s fun r =>
      if r = x then BitVec.ofNat 8 ((256 + s.v[x].toNat - s.v[y].toNat) % 256)
      else if r = 15 then (if s.v[y].toNat > s.v[x].toNat then 0 else 1) else s.v[r]) ∧
    (x ≠ 15 → y = 15 → s.v[y].toNat > s.v[x].toNat → WritesReg (.subReg x y) s 15 0) ∧
    (x ≠ 15 → y = 15 → s.v[y].toNat ≤ s.v[x].toNat → WritesRegs (.subReg x y) s fun r =>
      if r = x then BitVec.ofNat 8 ((256 + s.v[x].toNat - 1) % 256)
      else if r = 15 then 1 else s.v[r]) ∧
    (x = 15 → y ≠ 15 → s.v[y].toNat > s.v[x].toNat →
      WritesReg (.subReg x y) s 15 (BitVec.ofNat 8 ((256 - s.v[y].toNat) % 256))) ∧
    (x = 15 → y ≠ 15 → s.v[y].toNat ≤ s.v[x].toNat →
      WritesReg (.subReg x y) s 15 (BitVec.ofNat 8 ((257 - s.v[y].toNat) % 256))) ∧
    (x = 15 → y = 15 → WritesReg (.subReg x y) s 15 0)

/-- R78: Cxnn writes nn masked by the byte of the STEP and no flag. Where the host has not said which
byte it offers, the byte is a free one and the count of free bytes moves on (log 1). -/
def Obligations.RandomIsTheMaskedByteOfTheStep : Prop :=
  ∀ (s : State) (x : Reg) (nn : Byte),
    (∀ b : Byte, s.rnd = some b → WritesReg (.rnd x nn) s x (nn &&& b)) ∧
    (s.rnd = none → ∃ (b : Byte) (v' : Vector Byte 16),
      exec (.rnd x nn) s = .next { s with v := v', pc := s.pc + 2, draws := s.draws + 1 } ∧
      b = Config.randomByte s.draws ∧ ∀ r : Reg, v'[r] = if r = x then nn &&& b else s.v[r])

/-! ### Index register and memory (spec 42_index_and_memory.md) -/

/-- R80, R81, R82: Annn, Fx1E (modulo 65536) and Fx29 (the whole byte times 5) write I and nothing
else but pc. -/
def Obligations.IndexInstructionsWriteOnlyI : Prop :=
  ∀ (s : State) (x : Reg) (nnn : Imm12), ∃ a b c : Word,
    exec (.ldI nnn) s = .next { s with i := a, pc := s.pc + 2 } ∧ a.toNat = nnn.toNat ∧
    exec (.addI x) s = .next { s with i := b, pc := s.pc + 2 } ∧
    b.toNat = (s.i.toNat + s.v[x].toNat) % 65536 ∧
    exec (.ldFont x) s = .next { s with i := c, pc := s.pc + 2 } ∧ c.toNat = s.v[x].toNat * 5

/-- R83: Fx33 stores the hundreds, tens and ones of `V[x]` at I, I+1, I+2 and no other byte; when
I > 4093 it faults. -/
def Obligations.BcdStoresThreeDigits : Prop :=
  ∀ (s : State) (x : Reg),
    (s.i.toNat ≤ 4093 → ∃ m' : Memory,
      exec (.ldBcd x) s = .next { s with mem := m', pc := s.pc + 2 } ∧
      (m'.read s.i.toNat).toNat = s.v[x].toNat / 100 ∧
      (m'.read (s.i.toNat + 1)).toNat = s.v[x].toNat / 10 % 10 ∧
      (m'.read (s.i.toNat + 2)).toNat = s.v[x].toNat % 10 ∧
      ∀ a : Nat, a < s.i.toNat ∨ s.i.toNat + 2 < a → m'.read a = s.mem.read a) ∧
    (s.i.toNat > 4093 → exec (.ldBcd x) s = .fault (.memoryOutOfRange s.i))

/-- R84: Fx55 stores `V[j]` at I + j for j = 0..x and no other byte, and leaves I and the registers;
when I + x > 4095 it faults. -/
def Obligations.StoreRegistersFromI : Prop :=
  ∀ (s : State) (x : Reg),
    (s.i.toNat + x.val ≤ 4095 → ∃ m' : Memory,
      exec (.storeRegs x) s = .next { s with mem := m', pc := s.pc + 2 } ∧
      (∀ j : Reg, j ≤ x → m'.read (s.i.toNat + j.val) = s.v[j]) ∧
      ∀ a : Nat, a < s.i.toNat ∨ s.i.toNat + x.val < a → m'.read a = s.mem.read a) ∧
    (s.i.toNat + x.val > 4095 → exec (.storeRegs x) s = .fault (.memoryOutOfRange s.i))

/-- R85: Fx65 loads `V[j]` from I + j for j = 0..x, and leaves the registers above x, I and memory;
when I + x > 4095 it faults. -/
def Obligations.LoadRegistersFromI : Prop :=
  ∀ (s : State) (x : Reg),
    (s.i.toNat + x.val ≤ 4095 → WritesRegs (.loadRegs x) s fun r =>
      if r ≤ x then s.mem.read (s.i.toNat + r.val) else s.v[r]) ∧
    (s.i.toNat + x.val > 4095 → exec (.loadRegs x) s = .fault (.memoryOutOfRange s.i))

/-- R84, R85 (source property S14): an Fx55 and then an Fx65 of the same x and I restore the registers
V0..Vx, whatever became of the registers in between. -/
def Obligations.StoreThenLoadRestoresTheRegisters : Prop :=
  ∀ (s : State) (x : Reg), s.i.toNat + x.val ≤ 4095 →
    ∃ t, exec (.storeRegs x) s = .next t ∧ t.i = s.i ∧
      ∀ u : State, u.mem = t.mem → u.i = t.i →
        ∃ w, exec (.loadRegs x) u = .next w ∧ w.i = s.i ∧ ∀ j : Reg, j ≤ x → w.v[j] = s.v[j]

/-- R22, R38: memory is what its addresses read as. The canonical form, and that equal memories are
equal lists, is the model's (log 15). -/
def Obligations.EqualReadsAreEqualMemories : Prop :=
  ∀ m m' : Memory, m.wf = true → m'.wf = true → (∀ a : Nat, m.read a = m'.read a) → m = m'

/-! ### Display (spec 43_display.md) -/

/-- R88: 00E0 zeroes every cell and reports `draw`, whatever the framebuffer held; VF is kept. -/
def Obligations.ClearZeroesEveryCell : Prop :=
  ∀ s : State, ∃ fb' : Framebuffer,
    exec .cls s = .next { s with fb := fb', draw := true, pc := s.pc + 2 } ∧
    ∀ (cx : Fin 64) (cy : Fin 32), fb'.cell cx cy = false

/-- R89: Dxyn flips exactly the cells under a 1 bit of the sprite, wrapped to the screen, sets VF to 1
if one of them was lit and else to 0, reports `draw`, and faults when the last row's address is above
4095. The coordinates are the registers before, also where x or y is 15. -/
def Obligations.DrawFlipsExactlyTheCoveredCells : Prop :=
  ∀ (s : State) (x y : Reg) (n : Fin 16),
    (n.val = 0 ∨ s.i.toNat + n.val - 1 ≤ 4095 → ∃ (fb' : Framebuffer) (v' : Vector Byte 16),
      exec (.drw x y n) s = .next { s with v := v', fb := fb', draw := true, pc := s.pc + 2 } ∧
      (∀ cx cy, Covers s x y n.val cx cy → fb'.cell cx cy = !s.fb.cell cx cy) ∧
      (∀ cx cy, ¬Covers s x y n.val cx cy → fb'.cell cx cy = s.fb.cell cx cy) ∧
      (∀ r : Reg, r ≠ 15 → v'[r] = s.v[r]) ∧ (v'[(15 : Reg)] = 0 ∨ v'[(15 : Reg)] = 1) ∧
      (v'[(15 : Reg)] = 1 ↔ ∃ cx cy, Covers s x y n.val cx cy ∧ s.fb.cell cx cy = true)) ∧
    (n.val > 0 → s.i.toNat + n.val - 1 > 4095 →
      exec (.drw x y n) s = .fault (.memoryOutOfRange s.i))

/-- R89: drawing the same sprite twice at the same place (coordinates not in VF, which the first draw
writes) restores the framebuffer, and the second draw collides exactly if the first one lit a cell. -/
def Obligations.DrawingTwiceRestoresTheFramebuffer : Prop :=
  ∀ (s : State) (x y : Reg) (n : Fin 16), x ≠ 15 → y ≠ 15 →
    n.val = 0 ∨ s.i.toNat + n.val - 1 ≤ 4095 →
    ∃ t u, exec (.drw x y n) s = .next t ∧ exec (.drw x y n) t = .next u ∧ u.fb = s.fb ∧
      (u.v[(15 : Reg)] = 1 ↔ ∃ cx cy, Covers s x y n.val cx cy ∧ s.fb.cell cx cy = false)

/-! ### Keys and timers (spec 44_keys_and_timers.md) -/

/-- R92, R93: Ex9E skips if key `V[x]` is pressed, ExA1 if it is not; a key number above 15 faults. -/
def Obligations.KeySkipsTestTheKeyNamed : Prop :=
  ∀ (s : State) (x : Reg),
    (∀ k : Fin 16, s.v[x].toNat = k.val →
      exec (.skp x) s = .next { s with pc := s.pc + if s.keys[k] = true then 4 else 2 } ∧
      exec (.sknp x) s = .next { s with pc := s.pc + if s.keys[k] = false then 4 else 2 }) ∧
    (s.v[x].toNat > 15 →
      exec (.skp x) s = .fault (.keyIndexOutOfRange (s.v[x].setWidth 16)) ∧
      exec (.sknp x) s = .fault (.keyIndexOutOfRange (s.v[x].setWidth 16)))

/-- R94: Fx0A with no key pressed changes nothing, pc included; else it stores the least pressed key
and advances. -/
def Obligations.KeyWaitStoresTheLeastPressedKey : Prop :=
  ∀ (s : State) (x : Reg),
    ((∀ j : Fin 16, s.keys[j] = false) → exec (.ldKey x) s = .next s) ∧
    (∀ j : Fin 16, s.keys[j] = true → (∀ k : Fin 16, k < j → s.keys[k] = false) →
      WritesReg (.ldKey x) s x (BitVec.ofNat 8 j.val))

/-- R95, R96: Fx07 reads DT; Fx15 sets it, and k later TICK events leave it at the value less k,
stopping at 0. -/
def Obligations.DelayTimerIsReadSetAndCountedDown : Prop :=
  ∀ (s : State) (x : Reg) (k : Nat),
    WritesReg (.ldFromDt x) s x s.dt ∧
    exec (.ldToDt x) s = .next { s with dt := s.v[x], pc := s.pc + 2 } ∧
    (runEvents (List.replicate k .tick) { s with dt := s.v[x], pc := s.pc + 2 }).dt.toNat =
      s.v[x].toNat - k

/-! ### The unknown opcode (spec 45_unknown_opcode.md) -/

/-- R98: a word that matches no row advances pc by 2, reports `unknown`, and changes nothing else;
stated of the execute stage and of a STEP that fetches such a word. -/
def Obligations.UnknownOpcodeOnlyAdvances : Prop :=
  (∀ (s : State) (w : Word),
    exec (.unknown w) s = .next { s with unknown := true, pc := s.pc + 2 }) ∧
  (∀ (s : State) (r : Byte) (w : Word), s.fetch = .next w → (∀ q ∈ opcodeMap, w &&& q.mask ≠ q.mtch) →
    applyEvent (.step r) s =
      .next { s with rnd := some r, draw := false, unknown := true, pc := s.pc + 2 })

/-! ### Faults (spec 60_exceptions.md) -/

/-- R100: the complete list of faults, with their conditions, codes and info; where no condition holds
the instruction or event completes. -/
def Obligations.FaultsAreExactlyTheListedOnes : Prop :=
  (∀ (i : Instr) (s : State), ∀ f, faultOf i s = some f → exec i s = .fault f) ∧
  (∀ (i : Instr) (s : State), faultOf i s = none → ∃ t, exec i s = .next t) ∧
  (∀ (s : State) (r : Byte), s.pc.toNat > 4094 →
    applyEvent (.step r) s = .fault (.pcOutOfRange s.pc)) ∧
  (∀ (s : State) (r : Byte), s.pc.toNat ≤ 4094 → ∃ w, s.fetch = .next w ∧
    applyEvent (.step r) s = exec (decode w) (s.beginStep (some r))) ∧
  (∀ (s : State) (rom : List Byte), rom.length + 0x200 > 4096 →
    applyEvent (.load rom) s = .fault .romTooLarge) ∧
  (∀ (s : State) (rom : List Byte), rom.length + 0x200 ≤ 4096 →
    ∃ t, applyEvent (.load rom) s = .next t) ∧
  (∀ (s : State) (k : Fin 16) (p : Bool), (∃ t, applyEvent .tick s = .next t) ∧
    (∃ t, applyEvent (.setKey k p) s = .next t) ∧ (∃ t, applyEvent .fbRead s = .next t)) ∧
  (∀ w : Word, (Fault.pcOutOfRange w).code = 1 ∧ (Fault.stackOverflow w).code = 2 ∧
    (Fault.stackUnderflow w).code = 3 ∧ (Fault.memoryOutOfRange w).code = 4 ∧
    (Fault.keyIndexOutOfRange w).code = 5 ∧ Fault.romTooLarge.code = 6 ∧
    Fault.romTooLarge.info = none ∧
    (Fault.pcOutOfRange w).info = some w ∧ (Fault.stackOverflow w).info = some w ∧
    (Fault.stackUnderflow w).info = some w ∧ (Fault.memoryOutOfRange w).info = some w ∧
    (Fault.keyIndexOutOfRange w).info = some w)

/-- R53, R100: no step is refused; every one of the 65 536 words has a meaning. -/
def Obligations.NoStepIsRefused : Prop :=
  ∀ (s : State) (q : Refusal), step s ≠ .refused q

/-- R101, R104: a faulting STEP leaves the state to the host, the same fault is raised again after any
TICK and SETKEY events, and a LOAD that fits revives the core. -/
def Obligations.AFaultIsRaisedAgainUntilALoad : Prop :=
  ∀ (s : State) (r : Byte) (f : Fault), applyEvent (.step r) s = .fault f →
    s.after (.step r) = s ∧
    (∀ (es : List Event) (r' : Byte),
      (∀ e ∈ es, e = .tick ∨ (∃ k p, e = .setKey k p) ∨ ∃ b, e = .step b) →
      applyEvent (.step r') (runEvents es s) = .fault f) ∧
    (∀ rom : List Byte, rom.length ≤ 3584 → ∃ t, applyEvent (.load rom) s = .next t ∧ t.pc = 0x200)

/-- R107: a STEP reports `draw` after 00E0 and Dxyn only, `unknown` after an unknown opcode only, and
so never both (R9). -/
def Obligations.OutputsSayWhatRan : Prop :=
  ∀ (s t : State) (r : Byte) (w : Word), s.fetch = .next w → applyEvent (.step r) s = .next t →
    (t.draw = true ↔ decode w = .cls ∨ ∃ x y n, decode w = .drw x y n) ∧
    (t.unknown = true ↔ decode w = .unknown w) ∧
    (stepResult r s = some (.ok t.draw t.unknown)) ∧ ¬(t.draw = true ∧ t.unknown = true)

/-! ### Who writes what (spec 10_state.md) -/

/-- R10, R12: an instruction writes no register but its destination, and VF only where the list of
R12 or its x field names it; every other register is kept. -/
def Obligations.RegistersOutsideTheDestinationAreKept : Prop :=
  (∀ (i : Instr) (s t : State) (r : Reg), exec i s = .next t → mayWrite i r = false →
    t.v[r] = s.v[r]) ∧
  (∀ (i : Instr) (s t : State), exec i s = .next t → t.v[VF] ≠ s.v[VF] →
    (∃ x y, i = .addReg x y) ∨ (∃ x y, i = .subReg x y) ∨ (∃ x y n, i = .drw x y n) ∨
    (∃ nn, i = .ldImm 15 nn) ∨ (∃ nn, i = .addImm 15 nn) ∨ (∃ y, i = .ldReg 15 y) ∨
    (∃ y, i = .orReg 15 y) ∨ (∃ y, i = .andReg 15 y) ∨ (∃ y, i = .xorReg 15 y) ∨
    (∃ nn, i = .rnd 15 nn) ∨ i = .ldFromDt 15 ∨ i = .ldKey 15 ∨ i = .loadRegs 15)

/-- R16: no instruction other than Annn, Fx1E and Fx29 changes I. -/
def Obligations.OnlyIndexInstructionsChangeI : Prop :=
  ∀ (i : Instr) (s t : State), exec i s = .next t →
    t.i = s.i ∨ (∃ a, i = .ldI a) ∨ (∃ x, i = .addI x) ∨ ∃ x, i = .ldFont x

/-- R17: only 2nnn writes a slot and increments SP, and only 00EE decrements it; no slot below the
stack pointer of a call changes. -/
def Obligations.OnlyCallAndReturnTouchTheStack : Prop :=
  ∀ (i : Instr) (s t : State), exec i s = .next t →
    (t.sp = s.sp ∧ t.stack = s.stack) ∨
    ((∃ a, i = .call a) ∧ t.sp.val = s.sp.val + 1 ∧
      ∀ j : Fin 16, t.stack[j] = if j.val = s.sp.val then s.pc else s.stack[j]) ∨
    (i = .ret ∧ t.sp.val + 1 = s.sp.val ∧ t.stack = s.stack)

/-- R30, R38: no instruction but Fx33 and Fx55 changes a byte of memory, and those only from I up to
the highest address they check. -/
def Obligations.OnlyStoresChangeMemory : Prop :=
  ∀ (i : Instr) (s t : State), exec i s = .next t → ∀ a : Nat,
    t.mem.read a = s.mem.read a ∨
    ((∃ x, i = .ldBcd x) ∧ s.i.toNat ≤ a ∧ a ≤ s.i.toNat + 2 ∧ a ≤ 4095) ∨
    (∃ x : Reg, i = .storeRegs x ∧ s.i.toNat ≤ a ∧ a ≤ s.i.toNat + x.val ∧ a ≤ 4095)

/-- R19, R20, R97: no instruction writes a key bit or the sound timer, and none but Fx15 the delay
timer; none touches the host's side of the state but the two outputs and the count of free bytes. -/
def Obligations.InstructionsLeaveKeysAndTimers : Prop :=
  ∀ (i : Instr) (s t : State), exec i s = .next t →
    t.keys = s.keys ∧ t.st = s.st ∧ (t.dt = s.dt ∨ ∃ x, i = .ldToDt x) ∧
    t.rnd = s.rnd ∧ t.pending = s.pending ∧ (t.draws = s.draws ∨ ∃ x nn, i = .rnd x nn)

/-- R14: where pc stands after each instruction that completes. -/
def Obligations.PcMovesAsTheTableSays : Prop :=
  ∀ (i : Instr) (s t : State), exec i s = .next t →
    match i with
    | .jp nnn => t.pc.toNat = nnn.toNat
    | .call nnn => t.pc.toNat = nnn.toNat
    | .ret => ∃ n : Fin 16, s.sp.val = n.val + 1 ∧ t.pc = s.stack[n] + 2
    | .seImm x nn => t.pc = s.pc + if s.v[x] = nn then 4 else 2
    | .sneImm x nn => t.pc = s.pc + if s.v[x] = nn then 2 else 4
    | .seReg x y => t.pc = s.pc + if s.v[x] = s.v[y] then 4 else 2
    | .sneReg x y => t.pc = s.pc + if s.v[x] = s.v[y] then 2 else 4
    | .skp x => ∃ k : Fin 16, s.v[x].toNat = k.val ∧ t.pc = s.pc + if s.keys[k] then 4 else 2
    | .sknp x => ∃ k : Fin 16, s.v[x].toNat = k.val ∧ t.pc = s.pc + if s.keys[k] then 2 else 4
    | .ldKey _ => t.pc = s.pc + if ∃ j : Fin 16, s.keys[j] = true then 2 else 0
    | _ => t.pc = s.pc + 2

/-- R111: no instruction but Cxnn depends on the random byte: with another byte offered it ends the
same way, in the same state but for the byte itself. -/
def Obligations.OnlyRandomReadsTheOfferedByte : Prop :=
  ∀ (i : Instr) (s : State) (r : Option Byte), (∀ x nn, i ≠ .rnd x nn) →
    (∀ t, exec i s = .next t → exec i { s with rnd := r } = .next { t with rnd := r }) ∧
    (∀ f, exec i s = .fault f → exec i { s with rnd := r } = .fault f)

/-! ### Events of the host (spec 60_exceptions.md, 70_reset_and_hazards.md) -/

/-- R108: TICK decrements each timer by 1 and stops at 0, and changes nothing else. -/
def Obligations.TickCountsBothTimersDown : Prop :=
  ∀ s : State, ∃ d e : Byte, applyEvent .tick s = .next { s with dt := d, st := e } ∧
    d.toNat = s.dt.toNat - 1 ∧ e.toNat = s.st.toNat - 1

/-- R110: SETKEY(k, p) sets `K[k]` to p and changes nothing else. -/
def Obligations.SetKeyWritesOneKey : Prop :=
  ∀ (s : State) (k : Fin 16) (p : Bool), ∃ keys' : Vector Bool 16,
    applyEvent (.setKey k p) s = .next { s with keys := keys' } ∧
    ∀ j : Fin 16, keys'[j] = if j = k then p else s.keys[j]

/-- R112: FBREAD returns the 2048 cells in index order and changes nothing; a STEP that does not
report `draw`, a TICK and a SETKEY leave every cell alone, so a host that reads after `draw` alone
loses nothing. -/
def Obligations.FramebufferIsReadInOrderAndChangesOnlyWithDraw : Prop :=
  (∀ s : State, applyEvent .fbRead s = .next s ∧ s.fbRead.length = 2048 ∧
    ∀ (cx : Fin 64) (cy : Fin 32), s.fbRead[cy.val * 64 + cx.val]? = some (s.fb.cell cx cy)) ∧
  (∀ (s t : State) (e : Event), applyEvent e s = .next t → (∀ rom, e ≠ .load rom) →
    (∀ r, e = .step r → t.draw = false) → t.fb = s.fb)

/-- R121, R23, R25: a LOAD that fits creates every item of state anew, with the font table at 0, the
image at 0x200 and zero elsewhere, for every value of the parameter FONT. The clause that memory is in
canonical form is the model's (log 15), not R121's. -/
def Obligations.LoadCreatesTheStateAnew : Prop :=
  ∀ (s : State) (font : Vector Byte 80) (rom : List Byte), rom.length ≤ 3584 →
    ∃ t, s.loadWith font rom = .next t ∧ t.pc = 0x200 ∧ t.i = 0 ∧ t.sp.val = 0 ∧ t.dt = 0 ∧
      t.st = 0 ∧ (∀ r : Reg, t.v[r] = 0) ∧ (∀ j : Fin 16, t.stack[j] = 0) ∧
      (∀ k : Fin 16, t.keys[k] = false) ∧
      (∀ (cx : Fin 64) (cy : Fin 32), t.fb.cell cx cy = false) ∧ t.mem.wf = true ∧
      (∀ (a : Nat) (h : a < 80), t.mem.read a = font[a]) ∧
      (∀ (k : Nat) (h : k < rom.length), t.mem.read (0x200 + k) = rom[k]) ∧
      (∀ a : Nat, 80 ≤ a → a < 0x200 ∨ 0x200 + rom.length ≤ a → t.mem.read a = 0)

/-- R122: an image longer than 3584 bytes is refused and changes nothing; one of 3584 is not. -/
def Obligations.OversizeRomIsRefused : Prop :=
  ∀ (s : State) (rom : List Byte),
    (rom.length > 3584 → applyEvent (.load rom) s = .fault .romTooLarge ∧ s.after (.load rom) = s) ∧
    (rom.length = 3584 → ∃ t, applyEvent (.load rom) s = .next t ∧
      t.mem.read 4095 = rom.getD 3583 0)

/-- R23, R25: the model's reset is the state a LOAD of the empty image leaves (the choice of that
image is the model's, log 6). -/
def Obligations.ResetIsTheLoadOfTheEmptyImage : Prop :=
  State.reset.pc = 0x200 ∧ State.reset.mem = [] ∧
  ∀ s : State, s.pending = [] → s.draws = 0 → applyEvent (.load []) s = .next State.reset

/-! ### Invariants (spec 70_reset_and_hazards.md) -/

/-- R133: the invariant holds at reset. Its clause that memory is in canonical form is the model's (log
15), as the reset state itself is (log 6). -/
def Obligations.ResetMeetsTheInvariant : Prop := State.reset.Inv

/-- R133: every step keeps the invariant, from every state that meets it and whatever event is next. Its
clause that memory is in canonical form is the model's (log 15). -/
def Obligations.EveryStepKeepsTheInvariant : Prop :=
  ∀ s t : State, s.Inv → step s = .next t → t.Inv

/-- R133: the invariant holds in every state that any sequence of events leads to from any successful
LOAD, with any FONT. Its clause that memory is in canonical form is the model's (log 15). -/
def Obligations.ReachableStatesMeetTheInvariant : Prop :=
  ∀ s : State, Reachable s → s.Inv

/-- R63, R131: at a jump to its own address every STEP leaves all of the spec's state unchanged, and a
run of STEP, TICK and SETKEY events never faults. -/
def Obligations.SelfJumpIsAFixedPoint : Prop :=
  ∀ (s : State) (nnn : Imm12), s.fetch = .next (encode (.jp nnn)) → s.pc.toNat = nnn.toNat →
    (∀ r : Byte, applyEvent (.step r) s =
      .next { s with rnd := some r, draw := false, unknown := false }) ∧
    (∀ es : List Event, (∀ e ∈ es, e = .tick ∨ (∃ k p, e = .setKey k p) ∨ ∃ b, e = .step b) →
      SafeRun es s)

/-- R45, R60: a table word placed by `withFetchWord` is what the very next step runs, and it is what
the decoder reads from that word (the placing is the model's, log 14). -/
def Obligations.PlacedWordRunsNext : Prop :=
  ∀ (s : State) (w : Word), decodeTableWord 16 w.toNat = some (decode w) ∧
    step (s.withFetchWord 16 w.toNat) =
      exec (decode w) ((s.withFetchWord 16 w.toNat).beginStep none)

/-! ### The reference schedule (spec 60_exceptions.md R109) -/

/-- R109: a frame of the reference schedule is its SETKEYs, one STEP, FBREAD exactly if that STEP reports
`draw = true`, and one TICK; it leaves the state those SETKEYs, that STEP and that TICK leave. -/
def Obligations.ReferenceFrameReadsTheScreenExactlyAfterDraw : Prop :=
  ∀ (f : FrameInput) (s s1 : State),
    s1 = runEvents (f.keys.map fun c => .setKey c.1 c.2) s →
    ∃ shown : List Event,
      referenceFrame f s =
        f.keys.map (fun c => .setKey c.1 c.2) ++ .step f.rnd :: (shown ++ [.tick]) ∧
      ((∃ u, stepResult f.rnd s1 = some (.ok true u)) → shown = [.fbRead]) ∧
      ((∀ u, stepResult f.rnd s1 ≠ some (.ok true u)) → shown = []) ∧
      runFrame f s = (s1.after (.step f.rnd)).tick

/-- R109: under the reference schedule a value written by an Fx15 is read by an Fx07 executed k frames
later as that value less k, stopping at 0, where no frame between executes an Fx15. -/
def Obligations.ReferenceScheduleCountsOneTickAFrame : Prop :=
  ∀ (f g : FrameInput) (fs : List FrameInput) (s : State) (w w' : Word) (x y : Reg),
    s.fetch = .next w → decode w = .ldToDt x → NoDelaySet fs (runFrame f s) →
    (runFrames (f :: fs) s).fetch = .next w' → decode w' = .ldFromDt y →
    (runFrame g (runFrames (f :: fs) s)).v[y].toNat = s.v[x].toNat - (fs.length + 1)
end

