-- ==== Sys2Proof/Laws/Decode.lean ====
section
/-! SUPPORT. The fields of an encoded word, a word as its fields, and masks as fields. -/

namespace Sys2Proof

/-! ### Words and fields as numbers (R7, R46) -/

theorem append_toNat {n m : Nat} (a : BitVec n) (b : BitVec m) :
    (a ++ b).toNat = a.toNat * 2 ^ m + b.toNat := by
  rw [BitVec.toNat_append, ← Nat.shiftLeft_add_eq_or_of_lt b.isLt, Nat.shiftLeft_eq]

theorem encNNN_toNat (op : BitVec 4) (nnn : Imm12) :
    (encNNN op nnn).toNat = op.toNat * 4096 + nnn.toNat :=
  append_toNat op nnn

theorem encXNN_toNat (op : BitVec 4) (x : Reg) (nn : Byte) :
    (encXNN op x nn).toNat = op.toNat * 4096 + x.val * 256 + nn.toNat := by
  have h1 := append_toNat (op ++ nibble x) nn
  have h2 := append_toNat op (nibble x)
  have h3 : (nibble x).toNat = x.val := rfl
  rw [encXNN, h1, h2, h3]
  omega

theorem encXYN_toNat (op : BitVec 4) (x y : Reg) (n : Fin 16) :
    (encXYN op x y n).toNat = op.toNat * 4096 + x.val * 256 + y.val * 16 + n.val := by
  have h1 := append_toNat (op ++ nibble x ++ nibble y) (nibble n)
  have h2 := append_toNat (op ++ nibble x) (nibble y)
  have h3 := append_toNat op (nibble x)
  have hx : (nibble x).toNat = x.val := rfl
  have hy : (nibble y).toNat = y.val := rfl
  have hn : (nibble n).toNat = n.val := rfl
  simp only [encXYN]
  omega

theorem opField_eq (w : Word) : opField w = w.toNat / 4096 := by
  have h := w.isLt
  simp only [opField, nibbleAt, BitVec.val_toFin, BitVec.extractLsb'_toNat, Nat.shiftRight_eq_div_pow]
  omega

theorem xField_val (w : Word) : (xField w).val = w.toNat / 256 % 16 := by
  simp only [xField, nibbleAt, BitVec.val_toFin, BitVec.extractLsb'_toNat,
    Nat.shiftRight_eq_div_pow]

theorem yField_val (w : Word) : (yField w).val = w.toNat / 16 % 16 := by
  simp only [yField, nibbleAt, BitVec.val_toFin, BitVec.extractLsb'_toNat,
    Nat.shiftRight_eq_div_pow]

theorem nField_val (w : Word) : (nField w).val = w.toNat % 16 := by
  simp only [nField, nibbleAt, BitVec.val_toFin, BitVec.extractLsb'_toNat,
    Nat.shiftRight_eq_div_pow]
  omega

theorem nnField_toNat (w : Word) : (nnField w).toNat = w.toNat % 256 := by
  simp only [nnField, BitVec.extractLsb'_toNat, Nat.shiftRight_eq_div_pow]
  omega

theorem nnnField_toNat (w : Word) : (nnnField w).toNat = w.toNat % 4096 := by
  simp only [nnnField, BitVec.extractLsb'_toNat, Nat.shiftRight_eq_div_pow]
  omega

/-! ### Fields of an encoded word (R47) -/

@[simp] theorem encNNN_op (op : BitVec 4) (nnn : Imm12) : opField (encNNN op nnn) = op.toNat := by
  have := nnn.isLt
  rw [opField_eq, encNNN_toNat]; omega

@[simp] theorem encNNN_nnn (op : BitVec 4) (nnn : Imm12) : nnnField (encNNN op nnn) = nnn := by
  have := nnn.isLt
  apply BitVec.eq_of_toNat_eq
  rw [nnnField_toNat, encNNN_toNat]; omega

@[simp] theorem encXNN_op (op : BitVec 4) (x : Reg) (nn : Byte) :
    opField (encXNN op x nn) = op.toNat := by
  have := x.isLt
  have := nn.isLt
  rw [opField_eq, encXNN_toNat]; omega

@[simp] theorem encXNN_x (op : BitVec 4) (x : Reg) (nn : Byte) : xField (encXNN op x nn) = x := by
  have := x.isLt
  have := nn.isLt
  apply Fin.ext
  rw [xField_val, encXNN_toNat]; omega

@[simp] theorem encXNN_nn (op : BitVec 4) (x : Reg) (nn : Byte) :
    nnField (encXNN op x nn) = nn := by
  have := nn.isLt
  apply BitVec.eq_of_toNat_eq
  rw [nnField_toNat, encXNN_toNat]; omega

@[simp] theorem encXYN_op (op : BitVec 4) (x y : Reg) (n : Fin 16) :
    opField (encXYN op x y n) = op.toNat := by
  have := x.isLt
  have := y.isLt
  have := n.isLt
  rw [opField_eq, encXYN_toNat]; omega

@[simp] theorem encXYN_x (op : BitVec 4) (x y : Reg) (n : Fin 16) : xField (encXYN op x y n) = x := by
  have := x.isLt
  have := y.isLt
  have := n.isLt
  apply Fin.ext
  rw [xField_val, encXYN_toNat]; omega

@[simp] theorem encXYN_y (op : BitVec 4) (x y : Reg) (n : Fin 16) : yField (encXYN op x y n) = y := by
  have := y.isLt
  have := n.isLt
  apply Fin.ext
  rw [yField_val, encXYN_toNat]; omega

@[simp] theorem encXYN_n (op : BitVec 4) (x y : Reg) (n : Fin 16) : nField (encXYN op x y n) = n := by
  have := n.isLt
  apply Fin.ext
  rw [nField_val, encXYN_toNat]; omega

/-! ### A word is its fields -/

theorem encNNN_fields (w : Word) (op : BitVec 4) (h : opField w = op.toNat) :
    encNNN op (nnnField w) = w := by
  apply BitVec.eq_of_toNat_eq
  rw [opField_eq] at h
  rw [encNNN_toNat, nnnField_toNat]; omega

theorem encXNN_fields (w : Word) (op : BitVec 4) (h : opField w = op.toNat) :
    encXNN op (xField w) (nnField w) = w := by
  apply BitVec.eq_of_toNat_eq
  rw [opField_eq] at h
  rw [encXNN_toNat, nnField_toNat, xField_val]; omega

theorem encXYN_fields (w : Word) (op : BitVec 4) (h : opField w = op.toNat) :
    encXYN op (xField w) (yField w) (nField w) = w := by
  apply BitVec.eq_of_toNat_eq
  rw [opField_eq] at h
  rw [encXYN_toNat, nField_val, xField_val, yField_val]; omega

/-! ### Masks as fields (R49, R51) -/

theorem append_and {n m : Nat} (a c : BitVec n) (b d : BitVec m) :
    (a ++ b) &&& (c ++ d) = (a &&& c) ++ (b &&& d) := by
  apply BitVec.eq_of_getLsbD_eq
  intro i hi
  simp only [BitVec.getLsbD_and, BitVec.getLsbD_append]
  split <;> simp

theorem append_inj {n m : Nat} (a c : BitVec n) (b d : BitVec m) :
    a ++ b = c ++ d ↔ a = c ∧ b = d := by
  constructor
  · intro h
    have h := congrArg BitVec.toNat h
    rw [append_toNat, append_toNat] at h
    have hb := b.isLt
    have hd := d.isLt
    have h2 : b.toNat = d.toNat := by
      have := congrArg (· % 2 ^ m) h
      simpa [Nat.mod_eq_of_lt hb, Nat.mod_eq_of_lt hd, Nat.add_comm] using this
    have h1 : a.toNat = c.toNat :=
      Nat.eq_of_mul_eq_mul_right (Nat.two_pow_pos m) (by omega)
    exact ⟨BitVec.eq_of_toNat_eq h1, BitVec.eq_of_toNat_eq h2⟩
  · rintro ⟨rfl, rfl⟩; rfl

theorem encXYN_and (o o' : BitVec 4) (x x' y y' n n' : Fin 16) :
    encXYN o x y n &&& encXYN o' x' y' n' =
      (o &&& o') ++ (nibble x &&& nibble x') ++ (nibble y &&& nibble y') ++
        (nibble n &&& nibble n') := by
  rw [← append_and, ← append_and, ← append_and]
  rfl

theorem encXYN_eq (o : BitVec 4) (x y n : Fin 16) :
    encXYN o x y n = o ++ nibble x ++ nibble y ++ nibble n := rfl

/-- A masked comparison of a word, nibble by nibble. -/
theorem masked_eq_iff (w : Word) (mo ko : BitVec 4) (mx my mn kx ky kn : Fin 16) :
    w &&& encXYN mo mx my mn = encXYN ko kx ky kn ↔
      BitVec.ofNat 4 (opField w) &&& mo = ko ∧ nibble (xField w) &&& nibble mx = nibble kx ∧
        nibble (yField w) &&& nibble my = nibble ky ∧ nibble (nField w) &&& nibble mn = nibble kn := by
  have hop : opField w < 16 := (nibbleAt w 12).isLt
  have hw : encXYN (BitVec.ofNat 4 (opField w)) (xField w) (yField w) (nField w) = w :=
    encXYN_fields w _ (by rw [BitVec.toNat_ofNat]; omega)
  conv_lhs => rw [← hw]
  rw [encXYN_and, encXYN_eq]
  refine (append_inj _ _ _ _).trans ?_
  rw [append_inj, append_inj, and_assoc, and_assoc]

@[simp] theorem and_ones (b : BitVec 4) : b &&& 0xF = b := by
  revert b; decide

/-- The low byte of a word is its nibbles y and n. -/
theorem nnField_eq (w : Word) : (nnField w).toNat = (yField w).val * 16 + (nField w).val := by
  rw [nnField_toNat, yField_val, nField_val]; omega

/-! ### Round trip of a word through two bytes (R32) -/

theorem wordOfBytes_toNat (hi lo : Byte) : (wordOfBytes hi lo).toNat = hi.toNat * 256 + lo.toNat :=
  append_toNat hi lo

theorem wordOfBytes_bytesOfWord (w : Word) :
    wordOfBytes (w.extractLsb' 8 8) (w.extractLsb' 0 8) = w := by
  apply BitVec.eq_of_toNat_eq
  rw [wordOfBytes_toNat, BitVec.extractLsb'_toNat, BitVec.extractLsb'_toNat,
    Nat.shiftRight_eq_div_pow, Nat.shiftRight_eq_div_pow]
  have := w.isLt
  omega

/-- The bytes of a word decode to what the word decodes to. -/
theorem decodeBytes_bytesOfWord (w : Word) (rest : List Byte) :
    decodeBytes (bytesOfWord w ++ rest) = .ok (decode w, rest) := by
  simp only [bytesOfWord, List.cons_append, List.nil_append, decodeBytes, wordOfBytes_bytesOfWord]

end Sys2Proof
end

