-- ==== Sys2Proof/Laws/Framebuffer.lean ====
section
/-! SUPPORT. The framebuffer: reading a cell after a flip, and what drawing a pixel, a row and a sprite
do to every cell and to the collision. -/

namespace Sys2Proof.Machine

/-! ### One cell -/

@[simp] theorem Framebuffer.cell_clear (cx : Fin 64) (cy : Fin 32) :
    Framebuffer.clear.cell cx cy = false := by
  simp [Framebuffer.clear, Framebuffer.cell]

theorem Framebuffer.cell_flip (fb : Framebuffer) (cx cx' : Fin 64) (cy cy' : Fin 32) :
    (fb.flip cx cy).cell cx' cy' =
      if cx' = cx ∧ cy' = cy then !fb.cell cx' cy' else fb.cell cx' cy' := by
  by_cases hy : cy' = cy
  · subst hy
    by_cases hx : cx' = cx
    · subst hx
      simp [Framebuffer.flip, Framebuffer.cell]
    · have : cx'.val ≠ cx.val := fun e => hx (Fin.ext e)
      simp [Framebuffer.flip, Framebuffer.cell, hx, this]
  · have : cy.val ≠ cy'.val := fun e => hy (Fin.ext e.symm)
    simp [Framebuffer.flip, Framebuffer.cell, hy, this]

/-! ### Drawing -/

/-- A drawing step from `c` to `c'` flips exactly the cells of `P`, and collides exactly where one of
them was lit. -/
def Canvas.Flips (P : Fin 64 → Fin 32 → Prop) (c c' : Canvas) : Prop :=
  (∀ cx cy, c'.1.cell cx cy = true ↔ ¬(c.1.cell cx cy = true ↔ P cx cy)) ∧
    (c'.2 = true ↔ c.2 = true ∨ ∃ cx cy, c.1.cell cx cy = true ∧ P cx cy)

theorem Canvas.flips_none (c : Canvas) (P : Fin 64 → Fin 32 → Prop) (h : ∀ cx cy, ¬P cx cy) :
    Canvas.Flips P c c := by
  refine ⟨fun cx cy => ?_, ?_⟩
  · have := h cx cy; tauto
  · simp [h]

theorem Canvas.flips_congr {P Q : Fin 64 → Fin 32 → Prop} {c c' : Canvas}
    (h : Canvas.Flips P c c') (hPQ : ∀ cx cy, P cx cy ↔ Q cx cy) : Canvas.Flips Q c c' := by
  have : P = Q := by funext cx cy; exact propext (hPQ cx cy)
  rwa [← this]

/-- Two drawing steps with no cell in common are one. -/
theorem Canvas.flips_append {P Q : Fin 64 → Fin 32 → Prop} {c c' c'' : Canvas}
    (h1 : Canvas.Flips P c c') (h2 : Canvas.Flips Q c' c'') (hd : ∀ cx cy, P cx cy → ¬Q cx cy) :
    Canvas.Flips (fun cx cy => P cx cy ∨ Q cx cy) c c'' := by
  refine ⟨fun cx cy => ?_, ?_⟩
  · have := h1.1 cx cy; have := h2.1 cx cy; have := hd cx cy; tauto
  · rw [h2.2, h1.2]
    constructor
    · rintro ((h | ⟨cx, cy, hl, hP⟩) | ⟨cx, cy, hl, hQ⟩)
      · exact .inl h
      · exact .inr ⟨cx, cy, hl, .inl hP⟩
      · refine .inr ⟨cx, cy, ?_, .inr hQ⟩
        have := h1.1 cx cy; have := hd cx cy; tauto
    · rintro (h | ⟨cx, cy, hl, hP | hQ⟩)
      · exact .inl (.inl h)
      · exact .inl (.inr ⟨cx, cy, hl, hP⟩)
      · refine .inr ⟨cx, cy, ?_, hQ⟩
        have := h1.1 cx cy; have := hd cx cy; tauto

/-- Drawing steps 0 to n-1, no two with a cell in common, are one drawing step. -/
theorem Canvas.flips_range (f : Canvas → Nat → Canvas) (P : Nat → Fin 64 → Fin 32 → Prop) (N : Nat)
    (hf : ∀ c k, k < N → Canvas.Flips (P k) c (f c k))
    (hd : ∀ j k cx cy, j < k → k < N → P j cx cy → ¬P k cx cy) (c : Canvas) (n : Nat) (hn : n ≤ N) :
    Canvas.Flips (fun cx cy => ∃ k, k < n ∧ P k cx cy) c ((List.range n).foldl f c) := by
  induction n with
  | zero => exact Canvas.flips_none c _ (by simp)
  | succ n ih =>
    rw [List.range_succ, List.foldl_append]
    have h2 := hf ((List.range n).foldl f c) n (by omega)
    have h := Canvas.flips_append (ih (by omega)) h2 (by
      rintro cx cy ⟨k, hk, hP⟩
      exact hd k n cx cy hk (by omega) hP)
    refine Canvas.flips_congr h fun cx cy => ?_
    constructor
    · rintro (⟨k, hk, hP⟩ | hP)
      · exact ⟨k, by omega, hP⟩
      · exact ⟨n, by omega, hP⟩
    · rintro ⟨k, hk, hP⟩
      by_cases h : k = n
      · subst h; exact .inr hP
      · exact .inl ⟨k, by omega, hP⟩

/-- A pixel flips its one cell, with the coordinates wrapped (R89). -/
theorem Canvas.flips_pixel (c : Canvas) (px py : Nat) :
    Canvas.Flips (fun cx cy => cx.val = px % 64 ∧ cy.val = py % 32) c (c.pixel px py) := by
  have hx : ∀ cx : Fin 64, cx = Fin.ofNat 64 px ↔ cx.val = px % 64 := fun cx => by
    rw [Fin.ext_iff]; rfl
  have hy : ∀ cy : Fin 32, cy = Fin.ofNat 32 py ↔ cy.val = py % 32 := fun cy => by
    rw [Fin.ext_iff]; rfl
  refine ⟨fun cx cy => ?_, ?_⟩
  · simp only [Canvas.pixel, Framebuffer.cell_flip, hx, hy]
    split
    · rename_i h; simp [h.1, h.2]
    · rename_i h; tauto
  · simp only [Canvas.pixel, Bool.or_eq_true]
    constructor
    · rintro (h | h)
      · exact .inl h
      · exact .inr ⟨_, _, h, rfl, rfl⟩
    · rintro (h | ⟨cx, cy, hl, h1, h2⟩)
      · exact .inl h
      · rw [← hx] at h1; rw [← hy] at h2; subst h1 h2; exact .inr hl

/-- A row of a sprite flips the cells under the 1 bits of its byte (R89). -/
theorem Canvas.flips_row (b : Byte) (vx py : Nat) (c : Canvas) :
    Canvas.Flips (fun cx cy => ∃ col, col < 8 ∧ spriteBit b col = true ∧
      cx.val = (vx + col) % 64 ∧ cy.val = py % 32) c (c.row b vx py) := by
  refine Canvas.flips_range _ (fun col cx cy => spriteBit b col = true ∧
    cx.val = (vx + col) % 64 ∧ cy.val = py % 32) 8 (fun c col _ => ?_) ?_ c 8 (Nat.le_refl 8)
  · by_cases h : spriteBit b col = true
    · simpa [h] using Canvas.flips_pixel c (vx + col) py
    · simpa [h] using Canvas.flips_none c (fun _ _ => False) (by simp)
  · rintro j k cx cy hjk hk ⟨-, h1, -⟩ ⟨-, h2, -⟩
    omega

/-- A sprite flips the cells under the 1 bits of its bytes, for at most 32 rows (R89). -/
theorem Canvas.flips_sprite (m : Memory) (base vx vy n : Nat) (hn : n ≤ 32) (c : Canvas) :
    Canvas.Flips (fun cx cy => ∃ row, row < n ∧ ∃ col, col < 8 ∧
      spriteBit (m.read (base + row)) col = true ∧ cx.val = (vx + col) % 64 ∧
      cy.val = (vy + row) % 32) c (Canvas.sprite m base vx vy n c) := by
  refine Canvas.flips_range _ (fun row cx cy => ∃ col, col < 8 ∧
      spriteBit (m.read (base + row)) col = true ∧ cx.val = (vx + col) % 64 ∧
      cy.val = (vy + row) % 32) 32 (fun c row _ => Canvas.flips_row _ _ _ c) ?_ c n hn
  rintro j k cx cy hjk hk ⟨_, -, -, -, h1⟩ ⟨_, -, -, -, h2⟩
  omega

/-- Two framebuffers with the same cells are the same. -/
theorem Framebuffer.ext_cell (fb fb' : Framebuffer) (h : ∀ cx cy, fb.cell cx cy = fb'.cell cx cy) :
    fb = fb' := by
  apply Vector.ext
  intro y hy
  apply BitVec.eq_of_getLsbD_eq
  intro x hx
  simpa [Framebuffer.cell] using h ⟨x, hx⟩ ⟨y, hy⟩

/-- FBREAD reads out 2048 cells (R112). -/
theorem Framebuffer.cells_length (fb : Framebuffer) : fb.cells.length = 2048 := by
  simp [Framebuffer.cells]

end Sys2Proof.Machine
end

