-- ==== Sys2Proof/Laws/Memory.lean ====
section
/-! SUPPORT. Memory: a read after a write, reads of written blocks and of loaded images, and that
every operation keeps the canonical form. -/

namespace Sys2Proof.Machine

/-! ### Read after write (R38), for every memory -/

theorem Memory.read_erase (m : Memory) (a a' : Nat) :
    (m.erase a).read a' = if a' = a then Memory.unlisted a else m.read a' := by
  induction m with
  | nil => by_cases h : a' = a <;> simp [Memory.erase, Memory.read, h]
  | cons c m ih =>
    obtain ⟨k, v⟩ := c
    simp only [Memory.erase] at ih ⊢
    by_cases hk : k = a
    · subst hk
      by_cases h : a' = k <;> simp_all [Memory.read]
    · by_cases h : a' = k
      · subst h; simp [Memory.read, hk]
      · simp [Memory.read, hk, h, ih]

theorem Memory.read_insert (m : Memory) (a a' : Nat) (b : Byte)
    (hk : ∀ c ∈ m, c.1 ≠ a) :
    (m.insert a b).read a' = if a' = a then b else m.read a' := by
  induction m with
  | nil => by_cases h : a' = a <;> simp [Memory.insert, Memory.read, h]
  | cons c m ih =>
    obtain ⟨k, v⟩ := c
    have hka : k ≠ a := hk (k, v) (by simp)
    have ih := ih fun c hc => hk c (by simp [hc])
    by_cases hlt : a < k
    · simp [Memory.insert, Memory.read, hlt]
    · by_cases h : a' = k
      · subst h; simp [Memory.insert, Memory.read, hlt, hka]
      · simp [Memory.insert, Memory.read, hlt, h, ih]

theorem Memory.erase_keys (m : Memory) (a : Nat) : ∀ c ∈ m.erase a, c.1 ≠ a := by
  intro c hc
  simpa [Memory.erase] using (List.mem_filter.mp hc).2

/-- What every address reads as after one write. -/
theorem Memory.read_write (m : Memory) (a a' : Nat) (b : Byte) :
    (m.write a b).read a' = if a' = a then b else m.read a' := by
  by_cases hb : b = Memory.unlisted a
  · simp only [Memory.write, hb, if_true, Memory.read_erase]
  · rw [Memory.write, if_neg hb, Memory.read_insert _ _ _ _ (m.erase_keys a), Memory.read_erase]
    by_cases h : a' = a <;> simp [h]

@[simp] theorem Memory.read_write_same (m : Memory) (a : Nat) (b : Byte) :
    (m.write a b).read a = b := by
  simp [Memory.read_write]

theorem Memory.read_write_other (m : Memory) (a a' : Nat) (b : Byte) (h : a' ≠ a) :
    (m.write a b).read a' = m.read a' := by
  simp [Memory.read_write, h]

/-- Outside the block a block write leaves every byte alone. -/
theorem Memory.read_writeBytes_outside (bs : List Byte) (m : Memory) (a a' : Nat)
    (h : a' < a ∨ a + bs.length ≤ a') : (m.writeBytes a bs).read a' = m.read a' := by
  induction bs generalizing m a with
  | nil => rfl
  | cons b bs ih =>
    simp only [List.length_cons] at h
    rw [Memory.writeBytes, ih _ _ (by omega), Memory.read_write_other _ _ _ _ (by omega)]

/-- Inside the block every address reads its byte of the block. -/
theorem Memory.read_writeBytes_inside (bs : List Byte) (m : Memory) (a k : Nat)
    (h : k < bs.length) : (m.writeBytes a bs).read (a + k) = bs[k] := by
  induction bs generalizing m a k with
  | nil => simp at h
  | cons b bs ih =>
    cases k with
    | zero =>
      rw [Memory.writeBytes, Memory.read_writeBytes_outside _ _ _ _ (by omega)]
      simp
    | succ k =>
      have := ih (m.write a b) (a + 1) k (by simpa using h)
      rw [show a + (k + 1) = a + 1 + k by omega, Memory.writeBytes, this]
      simp

/-! ### The canonical form -/

theorem Memory.wfFrom_mono {lo lo' : Nat} {m : Memory} (h : lo ≤ lo') (hw : m.wfFrom lo' = true) :
    m.wfFrom lo = true := by
  cases m with
  | nil => rfl
  | cons c m =>
    obtain ⟨k, v⟩ := c
    simp only [Memory.wfFrom, Bool.and_eq_true, decide_eq_true_eq] at hw ⊢
    exact ⟨⟨⟨by omega, hw.1.1.2⟩, hw.1.2⟩, hw.2⟩

theorem Memory.wfFrom_erase {lo : Nat} {m : Memory} (a : Nat) (hw : m.wfFrom lo = true) :
    (m.erase a).wfFrom lo = true := by
  induction m generalizing lo with
  | nil => rfl
  | cons c m ih =>
    obtain ⟨k, v⟩ := c
    have hw' := hw
    simp only [Memory.wfFrom, Bool.and_eq_true, decide_eq_true_eq] at hw
    have ih := ih hw.2
    by_cases hk : k = a
    · have : Memory.erase ((k, v) :: m) a = Memory.erase m a := by simp [Memory.erase, hk]
      rw [this]
      exact Memory.wfFrom_mono (by omega) ih
    · have : Memory.erase ((k, v) :: m) a = (k, v) :: Memory.erase m a := by simp [Memory.erase, hk]
      rw [this]
      simp only [Memory.wfFrom, Bool.and_eq_true, decide_eq_true_eq]
      exact ⟨hw.1, ih⟩

theorem Memory.wfFrom_insert {lo : Nat} {m : Memory} {a : Nat} {b : Byte}
    (hw : m.wfFrom lo = true) (hlo : lo ≤ a) (ha : a < Config.memSize)
    (hb : b ≠ Memory.unlisted a) (hk : ∀ c ∈ m, c.1 ≠ a) : (m.insert a b).wfFrom lo = true := by
  induction m generalizing lo with
  | nil => simp [Memory.insert, Memory.wfFrom, hlo, ha, hb]
  | cons c m ih =>
    obtain ⟨k, v⟩ := c
    have hka : k ≠ a := hk (k, v) (by simp)
    simp only [Memory.wfFrom, Bool.and_eq_true, decide_eq_true_eq] at hw
    by_cases hlt : a < k
    · simp only [Memory.insert, hlt, if_true, Memory.wfFrom, Bool.and_eq_true, decide_eq_true_eq]
      exact ⟨⟨⟨hlo, ha⟩, by simpa using hb⟩, ⟨⟨by omega, hw.1.1.2⟩, hw.1.2⟩, hw.2⟩
    · simp only [Memory.insert, hlt, if_false, Memory.wfFrom, Bool.and_eq_true, decide_eq_true_eq]
      exact ⟨hw.1, ih hw.2 (by omega) fun c hc => hk c (by simp [hc])⟩

/-- A write keeps the canonical form. -/
theorem Memory.wf_write {m : Memory} {a : Nat} (b : Byte) (ha : a < Config.memSize)
    (hw : m.wf = true) : (m.write a b).wf = true := by
  unfold Memory.wf at *
  by_cases hb : b = Memory.unlisted a
  · rw [Memory.write, if_pos hb]
    exact Memory.wfFrom_erase a hw
  · rw [Memory.write, if_neg hb]
    exact Memory.wfFrom_insert (Memory.wfFrom_erase a hw) (Nat.zero_le a) ha hb (m.erase_keys a)

/-- A block write inside MEM keeps the canonical form. -/
theorem Memory.wf_writeBytes (bs : List Byte) {m : Memory} {a : Nat}
    (ha : a + bs.length ≤ Config.memSize) (hw : m.wf = true) :
    (m.writeBytes a bs).wf = true := by
  induction bs generalizing m a with
  | nil => exact hw
  | cons b bs ih =>
    simp only [List.length_cons] at ha
    exact ih (by omega) (Memory.wf_write b (by omega) hw)

theorem Memory.wfFrom_append {lo lo' : Nat} {m m' : Memory} (hw : m.wfFrom lo = true)
    (hk : ∀ c ∈ m, c.1 < lo') (hlo : lo ≤ lo') (hw' : m'.wfFrom lo' = true) :
    Memory.wfFrom lo (m ++ m') = true := by
  induction m generalizing lo with
  | nil => exact Memory.wfFrom_mono hlo hw'
  | cons c m ih =>
    obtain ⟨k, v⟩ := c
    have hk' : k < lo' := hk (k, v) (by simp)
    simp only [Memory.wfFrom, Bool.and_eq_true, decide_eq_true_eq] at hw
    simp only [List.cons_append, Memory.wfFrom, Bool.and_eq_true, decide_eq_true_eq]
    exact ⟨hw.1, ih hw.2 (fun c hc => hk c (by simp [hc])) (by omega)⟩

/-- An image inside MEM is canonical. -/
theorem Memory.wfFrom_ofBytes (bs : List Byte) (a : Nat) (ha : a + bs.length ≤ Config.memSize) :
    (Memory.ofBytes a bs).wfFrom a = true := by
  induction bs generalizing a with
  | nil => rfl
  | cons b bs ih =>
    simp only [List.length_cons] at ha
    have ih := ih (a + 1) (by omega)
    by_cases hb : b = Memory.unlisted a
    · rw [Memory.ofBytes, if_pos hb]
      exact Memory.wfFrom_mono (by omega) ih
    · rw [Memory.ofBytes, if_neg hb]
      simp only [Memory.wfFrom, Bool.and_eq_true, decide_eq_true_eq]
      exact ⟨⟨⟨by omega, by omega⟩, by simpa using hb⟩, ih⟩

theorem Memory.ofBytes_keys (bs : List Byte) (a : Nat) :
    ∀ c ∈ Memory.ofBytes a bs, a ≤ c.1 ∧ c.1 < a + bs.length := by
  induction bs generalizing a with
  | nil => simp [Memory.ofBytes]
  | cons b bs ih =>
    intro c hc
    simp only [Memory.ofBytes] at hc
    simp only [List.length_cons]
    split at hc
    · have := ih _ c hc; omega
    · rcases List.mem_cons.mp hc with rfl | hc
      · simp
      · have := ih _ c hc; omega

/-- MEM after a `LOAD` that fits is canonical. -/
theorem imageMemory_wf (font : Vector Byte 80) (rom : List Byte) (h : rom.length ≤ Config.romMax) :
    (imageMemory font rom).wf = true := by
  have h' : rom.length ≤ 3584 := h
  refine Memory.wfFrom_append (lo' := Config.progBase)
    (Memory.wfFrom_ofBytes _ 0 (by simp [Config.memSize])) (fun c hc => ?_) (Nat.zero_le _)
    (Memory.wfFrom_ofBytes _ _ ?_)
  · have := (Memory.ofBytes_keys _ _ c hc).2
    simp only [Vector.length_toList] at this
    simp only [Config.progBase]; omega
  · simp only [Config.progBase, Config.memSize]; omega

/-! ### Reads of an image (R25) -/

theorem Memory.read_append_left (m m' : Memory) (a : Nat) (h : ∀ c ∈ m, c.1 ≠ a) :
    Memory.read (m ++ m') a = Memory.read m' a := by
  induction m with
  | nil => rfl
  | cons c m ih =>
    obtain ⟨k, v⟩ := c
    have hka : k ≠ a := h (k, v) (by simp)
    rw [List.cons_append, Memory.read, if_neg (Ne.symm hka)]
    exact ih fun c hc => h c (by simp [hc])

theorem Memory.read_append_right (m m' : Memory) (a : Nat) (h : ∀ c ∈ m', c.1 ≠ a) :
    Memory.read (m ++ m') a = Memory.read m a := by
  have key : Memory.read m' a = Memory.unlisted a := by
    have := Memory.read_append_left m' [] a h
    simpa [Memory.read] using this
  induction m with
  | nil => simpa [Memory.read] using key
  | cons c m ih =>
    obtain ⟨k, v⟩ := c
    simp only [List.cons_append, Memory.read, ih]

/-- What an image reads as: its bytes, and outside it what is unlisted. -/
theorem Memory.read_ofBytes (bs : List Byte) (a a' : Nat) :
    (Memory.ofBytes a bs).read a' =
      if h : a ≤ a' ∧ a' < a + bs.length then bs[a' - a]'(by omega) else Memory.unlisted a' := by
  induction bs generalizing a with
  | nil =>
    simp [Memory.ofBytes, Memory.read]
  | cons b bs ih =>
    have ih := ih (a + 1)
    by_cases ha : a' = a
    · subst ha
      have h1 : ¬(a' + 1 ≤ a' ∧ a' < a' + 1 + bs.length) := by omega
      rw [dif_neg h1] at ih
      rw [dif_pos (by simp only [List.length_cons]; omega)]
      by_cases hb : b = Memory.unlisted a'
      · simp only [Memory.ofBytes, if_pos hb, ih, Nat.sub_self, List.getElem_cons_zero]
        exact hb.symm
      · simp [Memory.ofBytes, if_neg hb, Memory.read]
    · have step : (Memory.ofBytes a (b :: bs)).read a' = (Memory.ofBytes (a + 1) bs).read a' := by
        by_cases hb : b = Memory.unlisted a
        · rw [Memory.ofBytes, if_pos hb]
        · rw [Memory.ofBytes, if_neg hb, Memory.read, if_neg ha]
      rw [step, ih]
      by_cases hin : a + 1 ≤ a' ∧ a' < a + 1 + bs.length
      · rw [dif_pos hin, dif_pos (by simp only [List.length_cons]; omega), List.getElem_cons]
        rw [dif_neg (by omega)]
        simp only [show a' - a - 1 = a' - (a + 1) by omega]
      · rw [dif_neg hin, dif_neg (by simp only [List.length_cons]; omega)]

end Sys2Proof.Machine
end

