-- ==== Sys2Proof/Laws/State.lean ====
section
/-! SUPPORT. One lemma per field of State per update: what the update leaves and what it writes. -/

namespace Sys2Proof.Machine

variable (s : State)

/-! ### `setMem` -/

@[simp] theorem State.setMem_v (m : Memory) : (s.setMem m).v = s.v := rfl
@[simp] theorem State.setMem_pc (m : Memory) : (s.setMem m).pc = s.pc := rfl
@[simp] theorem State.setMem_i (m : Memory) : (s.setMem m).i = s.i := rfl
@[simp] theorem State.setMem_stack (m : Memory) : (s.setMem m).stack = s.stack := rfl
@[simp] theorem State.setMem_sp (m : Memory) : (s.setMem m).sp = s.sp := rfl
@[simp] theorem State.setMem_dt (m : Memory) : (s.setMem m).dt = s.dt := rfl
@[simp] theorem State.setMem_st (m : Memory) : (s.setMem m).st = s.st := rfl
@[simp] theorem State.setMem_keys (m : Memory) : (s.setMem m).keys = s.keys := rfl
@[simp] theorem State.setMem_fb (m : Memory) : (s.setMem m).fb = s.fb := rfl
@[simp] theorem State.setMem_mem (m : Memory) : (s.setMem m).mem = m := rfl
@[simp] theorem State.setMem_rnd (m : Memory) : (s.setMem m).rnd = s.rnd := rfl
@[simp] theorem State.setMem_draws (m : Memory) : (s.setMem m).draws = s.draws := rfl
@[simp] theorem State.setMem_draw (m : Memory) : (s.setMem m).draw = s.draw := rfl
@[simp] theorem State.setMem_unknown (m : Memory) : (s.setMem m).unknown = s.unknown := rfl
@[simp] theorem State.setMem_pending (m : Memory) : (s.setMem m).pending = s.pending := rfl

/-! ### `setV` -/

@[simp] theorem State.setV_v (x : Reg) (b : Byte) : (s.setV x b).v = s.v.set x b := rfl
@[simp] theorem State.setV_pc (x : Reg) (b : Byte) : (s.setV x b).pc = s.pc := rfl
@[simp] theorem State.setV_i (x : Reg) (b : Byte) : (s.setV x b).i = s.i := rfl
@[simp] theorem State.setV_stack (x : Reg) (b : Byte) : (s.setV x b).stack = s.stack := rfl
@[simp] theorem State.setV_sp (x : Reg) (b : Byte) : (s.setV x b).sp = s.sp := rfl
@[simp] theorem State.setV_dt (x : Reg) (b : Byte) : (s.setV x b).dt = s.dt := rfl
@[simp] theorem State.setV_st (x : Reg) (b : Byte) : (s.setV x b).st = s.st := rfl
@[simp] theorem State.setV_keys (x : Reg) (b : Byte) : (s.setV x b).keys = s.keys := rfl
@[simp] theorem State.setV_fb (x : Reg) (b : Byte) : (s.setV x b).fb = s.fb := rfl
@[simp] theorem State.setV_mem (x : Reg) (b : Byte) : (s.setV x b).mem = s.mem := rfl
@[simp] theorem State.setV_rnd (x : Reg) (b : Byte) : (s.setV x b).rnd = s.rnd := rfl
@[simp] theorem State.setV_draws (x : Reg) (b : Byte) : (s.setV x b).draws = s.draws := rfl
@[simp] theorem State.setV_draw (x : Reg) (b : Byte) : (s.setV x b).draw = s.draw := rfl
@[simp] theorem State.setV_unknown (x : Reg) (b : Byte) : (s.setV x b).unknown = s.unknown := rfl
@[simp] theorem State.setV_pending (x : Reg) (b : Byte) : (s.setV x b).pending = s.pending := rfl

/-! ### `setRegs` -/

@[simp] theorem State.setRegs_v (v : Vector Byte 16) : (s.setRegs v).v = v := rfl
@[simp] theorem State.setRegs_pc (v : Vector Byte 16) : (s.setRegs v).pc = s.pc := rfl
@[simp] theorem State.setRegs_i (v : Vector Byte 16) : (s.setRegs v).i = s.i := rfl
@[simp] theorem State.setRegs_stack (v : Vector Byte 16) : (s.setRegs v).stack = s.stack := rfl
@[simp] theorem State.setRegs_sp (v : Vector Byte 16) : (s.setRegs v).sp = s.sp := rfl
@[simp] theorem State.setRegs_dt (v : Vector Byte 16) : (s.setRegs v).dt = s.dt := rfl
@[simp] theorem State.setRegs_st (v : Vector Byte 16) : (s.setRegs v).st = s.st := rfl
@[simp] theorem State.setRegs_keys (v : Vector Byte 16) : (s.setRegs v).keys = s.keys := rfl
@[simp] theorem State.setRegs_fb (v : Vector Byte 16) : (s.setRegs v).fb = s.fb := rfl
@[simp] theorem State.setRegs_mem (v : Vector Byte 16) : (s.setRegs v).mem = s.mem := rfl
@[simp] theorem State.setRegs_rnd (v : Vector Byte 16) : (s.setRegs v).rnd = s.rnd := rfl
@[simp] theorem State.setRegs_draws (v : Vector Byte 16) : (s.setRegs v).draws = s.draws := rfl
@[simp] theorem State.setRegs_draw (v : Vector Byte 16) : (s.setRegs v).draw = s.draw := rfl
@[simp] theorem State.setRegs_unknown (v : Vector Byte 16) : (s.setRegs v).unknown = s.unknown := rfl
@[simp] theorem State.setRegs_pending (v : Vector Byte 16) : (s.setRegs v).pending = s.pending := rfl

/-! ### `setI` -/

@[simp] theorem State.setI_v (w : Word) : (s.setI w).v = s.v := rfl
@[simp] theorem State.setI_pc (w : Word) : (s.setI w).pc = s.pc := rfl
@[simp] theorem State.setI_i (w : Word) : (s.setI w).i = w := rfl
@[simp] theorem State.setI_stack (w : Word) : (s.setI w).stack = s.stack := rfl
@[simp] theorem State.setI_sp (w : Word) : (s.setI w).sp = s.sp := rfl
@[simp] theorem State.setI_dt (w : Word) : (s.setI w).dt = s.dt := rfl
@[simp] theorem State.setI_st (w : Word) : (s.setI w).st = s.st := rfl
@[simp] theorem State.setI_keys (w : Word) : (s.setI w).keys = s.keys := rfl
@[simp] theorem State.setI_fb (w : Word) : (s.setI w).fb = s.fb := rfl
@[simp] theorem State.setI_mem (w : Word) : (s.setI w).mem = s.mem := rfl
@[simp] theorem State.setI_rnd (w : Word) : (s.setI w).rnd = s.rnd := rfl
@[simp] theorem State.setI_draws (w : Word) : (s.setI w).draws = s.draws := rfl
@[simp] theorem State.setI_draw (w : Word) : (s.setI w).draw = s.draw := rfl
@[simp] theorem State.setI_unknown (w : Word) : (s.setI w).unknown = s.unknown := rfl
@[simp] theorem State.setI_pending (w : Word) : (s.setI w).pending = s.pending := rfl

/-! ### `setDt` -/

@[simp] theorem State.setDt_v (b : Byte) : (s.setDt b).v = s.v := rfl
@[simp] theorem State.setDt_pc (b : Byte) : (s.setDt b).pc = s.pc := rfl
@[simp] theorem State.setDt_i (b : Byte) : (s.setDt b).i = s.i := rfl
@[simp] theorem State.setDt_stack (b : Byte) : (s.setDt b).stack = s.stack := rfl
@[simp] theorem State.setDt_sp (b : Byte) : (s.setDt b).sp = s.sp := rfl
@[simp] theorem State.setDt_dt (b : Byte) : (s.setDt b).dt = b := rfl
@[simp] theorem State.setDt_st (b : Byte) : (s.setDt b).st = s.st := rfl
@[simp] theorem State.setDt_keys (b : Byte) : (s.setDt b).keys = s.keys := rfl
@[simp] theorem State.setDt_fb (b : Byte) : (s.setDt b).fb = s.fb := rfl
@[simp] theorem State.setDt_mem (b : Byte) : (s.setDt b).mem = s.mem := rfl
@[simp] theorem State.setDt_rnd (b : Byte) : (s.setDt b).rnd = s.rnd := rfl
@[simp] theorem State.setDt_draws (b : Byte) : (s.setDt b).draws = s.draws := rfl
@[simp] theorem State.setDt_draw (b : Byte) : (s.setDt b).draw = s.draw := rfl
@[simp] theorem State.setDt_unknown (b : Byte) : (s.setDt b).unknown = s.unknown := rfl
@[simp] theorem State.setDt_pending (b : Byte) : (s.setDt b).pending = s.pending := rfl

/-! ### `setPc` -/

@[simp] theorem State.setPc_v (w : Word) : (s.setPc w).v = s.v := rfl
@[simp] theorem State.setPc_pc (w : Word) : (s.setPc w).pc = w := rfl
@[simp] theorem State.setPc_i (w : Word) : (s.setPc w).i = s.i := rfl
@[simp] theorem State.setPc_stack (w : Word) : (s.setPc w).stack = s.stack := rfl
@[simp] theorem State.setPc_sp (w : Word) : (s.setPc w).sp = s.sp := rfl
@[simp] theorem State.setPc_dt (w : Word) : (s.setPc w).dt = s.dt := rfl
@[simp] theorem State.setPc_st (w : Word) : (s.setPc w).st = s.st := rfl
@[simp] theorem State.setPc_keys (w : Word) : (s.setPc w).keys = s.keys := rfl
@[simp] theorem State.setPc_fb (w : Word) : (s.setPc w).fb = s.fb := rfl
@[simp] theorem State.setPc_mem (w : Word) : (s.setPc w).mem = s.mem := rfl
@[simp] theorem State.setPc_rnd (w : Word) : (s.setPc w).rnd = s.rnd := rfl
@[simp] theorem State.setPc_draws (w : Word) : (s.setPc w).draws = s.draws := rfl
@[simp] theorem State.setPc_draw (w : Word) : (s.setPc w).draw = s.draw := rfl
@[simp] theorem State.setPc_unknown (w : Word) : (s.setPc w).unknown = s.unknown := rfl
@[simp] theorem State.setPc_pending (w : Word) : (s.setPc w).pending = s.pending := rfl

/-! ### `advance` -/

@[simp] theorem State.advance_v : (s.advance).v = s.v := rfl
@[simp] theorem State.advance_pc : (s.advance).pc = s.pc + 2 := rfl
@[simp] theorem State.advance_i : (s.advance).i = s.i := rfl
@[simp] theorem State.advance_stack : (s.advance).stack = s.stack := rfl
@[simp] theorem State.advance_sp : (s.advance).sp = s.sp := rfl
@[simp] theorem State.advance_dt : (s.advance).dt = s.dt := rfl
@[simp] theorem State.advance_st : (s.advance).st = s.st := rfl
@[simp] theorem State.advance_keys : (s.advance).keys = s.keys := rfl
@[simp] theorem State.advance_fb : (s.advance).fb = s.fb := rfl
@[simp] theorem State.advance_mem : (s.advance).mem = s.mem := rfl
@[simp] theorem State.advance_rnd : (s.advance).rnd = s.rnd := rfl
@[simp] theorem State.advance_draws : (s.advance).draws = s.draws := rfl
@[simp] theorem State.advance_draw : (s.advance).draw = s.draw := rfl
@[simp] theorem State.advance_unknown : (s.advance).unknown = s.unknown := rfl
@[simp] theorem State.advance_pending : (s.advance).pending = s.pending := rfl

/-! ### `push` -/

@[simp] theorem State.push_v (w : Word) (h : s.sp.val ≠ 16) : (s.push w h).v = s.v := rfl
@[simp] theorem State.push_pc (w : Word) (h : s.sp.val ≠ 16) : (s.push w h).pc = s.pc := rfl
@[simp] theorem State.push_i (w : Word) (h : s.sp.val ≠ 16) : (s.push w h).i = s.i := rfl
@[simp] theorem State.push_stack (w : Word) (h : s.sp.val ≠ 16) : (s.push w h).stack = s.stack.set s.sp.val w (by omega) := rfl
@[simp] theorem State.push_sp (w : Word) (h : s.sp.val ≠ 16) : (s.push w h).sp = ⟨s.sp.val + 1, by omega⟩ := rfl
@[simp] theorem State.push_dt (w : Word) (h : s.sp.val ≠ 16) : (s.push w h).dt = s.dt := rfl
@[simp] theorem State.push_st (w : Word) (h : s.sp.val ≠ 16) : (s.push w h).st = s.st := rfl
@[simp] theorem State.push_keys (w : Word) (h : s.sp.val ≠ 16) : (s.push w h).keys = s.keys := rfl
@[simp] theorem State.push_fb (w : Word) (h : s.sp.val ≠ 16) : (s.push w h).fb = s.fb := rfl
@[simp] theorem State.push_mem (w : Word) (h : s.sp.val ≠ 16) : (s.push w h).mem = s.mem := rfl
@[simp] theorem State.push_rnd (w : Word) (h : s.sp.val ≠ 16) : (s.push w h).rnd = s.rnd := rfl
@[simp] theorem State.push_draws (w : Word) (h : s.sp.val ≠ 16) : (s.push w h).draws = s.draws := rfl
@[simp] theorem State.push_draw (w : Word) (h : s.sp.val ≠ 16) : (s.push w h).draw = s.draw := rfl
@[simp] theorem State.push_unknown (w : Word) (h : s.sp.val ≠ 16) : (s.push w h).unknown = s.unknown := rfl
@[simp] theorem State.push_pending (w : Word) (h : s.sp.val ≠ 16) : (s.push w h).pending = s.pending := rfl

/-! ### `pop` -/

@[simp] theorem State.pop_v : (s.pop).v = s.v := rfl
@[simp] theorem State.pop_pc : (s.pop).pc = s.stack[s.sp.val - 1]'(by omega) := rfl
@[simp] theorem State.pop_i : (s.pop).i = s.i := rfl
@[simp] theorem State.pop_stack : (s.pop).stack = s.stack := rfl
@[simp] theorem State.pop_sp : (s.pop).sp = ⟨s.sp.val - 1, by omega⟩ := rfl
@[simp] theorem State.pop_dt : (s.pop).dt = s.dt := rfl
@[simp] theorem State.pop_st : (s.pop).st = s.st := rfl
@[simp] theorem State.pop_keys : (s.pop).keys = s.keys := rfl
@[simp] theorem State.pop_fb : (s.pop).fb = s.fb := rfl
@[simp] theorem State.pop_mem : (s.pop).mem = s.mem := rfl
@[simp] theorem State.pop_rnd : (s.pop).rnd = s.rnd := rfl
@[simp] theorem State.pop_draws : (s.pop).draws = s.draws := rfl
@[simp] theorem State.pop_draw : (s.pop).draw = s.draw := rfl
@[simp] theorem State.pop_unknown : (s.pop).unknown = s.unknown := rfl
@[simp] theorem State.pop_pending : (s.pop).pending = s.pending := rfl

/-! ### `setFb` -/

@[simp] theorem State.setFb_v (fb : Framebuffer) : (s.setFb fb).v = s.v := rfl
@[simp] theorem State.setFb_pc (fb : Framebuffer) : (s.setFb fb).pc = s.pc := rfl
@[simp] theorem State.setFb_i (fb : Framebuffer) : (s.setFb fb).i = s.i := rfl
@[simp] theorem State.setFb_stack (fb : Framebuffer) : (s.setFb fb).stack = s.stack := rfl
@[simp] theorem State.setFb_sp (fb : Framebuffer) : (s.setFb fb).sp = s.sp := rfl
@[simp] theorem State.setFb_dt (fb : Framebuffer) : (s.setFb fb).dt = s.dt := rfl
@[simp] theorem State.setFb_st (fb : Framebuffer) : (s.setFb fb).st = s.st := rfl
@[simp] theorem State.setFb_keys (fb : Framebuffer) : (s.setFb fb).keys = s.keys := rfl
@[simp] theorem State.setFb_fb (fb : Framebuffer) : (s.setFb fb).fb = fb := rfl
@[simp] theorem State.setFb_mem (fb : Framebuffer) : (s.setFb fb).mem = s.mem := rfl
@[simp] theorem State.setFb_rnd (fb : Framebuffer) : (s.setFb fb).rnd = s.rnd := rfl
@[simp] theorem State.setFb_draws (fb : Framebuffer) : (s.setFb fb).draws = s.draws := rfl
@[simp] theorem State.setFb_draw (fb : Framebuffer) : (s.setFb fb).draw = s.draw := rfl
@[simp] theorem State.setFb_unknown (fb : Framebuffer) : (s.setFb fb).unknown = s.unknown := rfl
@[simp] theorem State.setFb_pending (fb : Framebuffer) : (s.setFb fb).pending = s.pending := rfl

/-! ### `beginStep` -/

@[simp] theorem State.beginStep_v (r : Option Byte) : (s.beginStep r).v = s.v := rfl
@[simp] theorem State.beginStep_pc (r : Option Byte) : (s.beginStep r).pc = s.pc := rfl
@[simp] theorem State.beginStep_i (r : Option Byte) : (s.beginStep r).i = s.i := rfl
@[simp] theorem State.beginStep_stack (r : Option Byte) : (s.beginStep r).stack = s.stack := rfl
@[simp] theorem State.beginStep_sp (r : Option Byte) : (s.beginStep r).sp = s.sp := rfl
@[simp] theorem State.beginStep_dt (r : Option Byte) : (s.beginStep r).dt = s.dt := rfl
@[simp] theorem State.beginStep_st (r : Option Byte) : (s.beginStep r).st = s.st := rfl
@[simp] theorem State.beginStep_keys (r : Option Byte) : (s.beginStep r).keys = s.keys := rfl
@[simp] theorem State.beginStep_fb (r : Option Byte) : (s.beginStep r).fb = s.fb := rfl
@[simp] theorem State.beginStep_mem (r : Option Byte) : (s.beginStep r).mem = s.mem := rfl
@[simp] theorem State.beginStep_rnd (r : Option Byte) : (s.beginStep r).rnd = r := rfl
@[simp] theorem State.beginStep_draws (r : Option Byte) : (s.beginStep r).draws = s.draws := rfl
@[simp] theorem State.beginStep_draw (r : Option Byte) : (s.beginStep r).draw = false := rfl
@[simp] theorem State.beginStep_unknown (r : Option Byte) : (s.beginStep r).unknown = false := rfl
@[simp] theorem State.beginStep_pending (r : Option Byte) : (s.beginStep r).pending = s.pending := rfl

/-! ### `reportDraw` -/

@[simp] theorem State.reportDraw_v : (s.reportDraw).v = s.v := rfl
@[simp] theorem State.reportDraw_pc : (s.reportDraw).pc = s.pc := rfl
@[simp] theorem State.reportDraw_i : (s.reportDraw).i = s.i := rfl
@[simp] theorem State.reportDraw_stack : (s.reportDraw).stack = s.stack := rfl
@[simp] theorem State.reportDraw_sp : (s.reportDraw).sp = s.sp := rfl
@[simp] theorem State.reportDraw_dt : (s.reportDraw).dt = s.dt := rfl
@[simp] theorem State.reportDraw_st : (s.reportDraw).st = s.st := rfl
@[simp] theorem State.reportDraw_keys : (s.reportDraw).keys = s.keys := rfl
@[simp] theorem State.reportDraw_fb : (s.reportDraw).fb = s.fb := rfl
@[simp] theorem State.reportDraw_mem : (s.reportDraw).mem = s.mem := rfl
@[simp] theorem State.reportDraw_rnd : (s.reportDraw).rnd = s.rnd := rfl
@[simp] theorem State.reportDraw_draws : (s.reportDraw).draws = s.draws := rfl
@[simp] theorem State.reportDraw_draw : (s.reportDraw).draw = true := rfl
@[simp] theorem State.reportDraw_unknown : (s.reportDraw).unknown = s.unknown := rfl
@[simp] theorem State.reportDraw_pending : (s.reportDraw).pending = s.pending := rfl

/-! ### `reportUnknown` -/

@[simp] theorem State.reportUnknown_v : (s.reportUnknown).v = s.v := rfl
@[simp] theorem State.reportUnknown_pc : (s.reportUnknown).pc = s.pc := rfl
@[simp] theorem State.reportUnknown_i : (s.reportUnknown).i = s.i := rfl
@[simp] theorem State.reportUnknown_stack : (s.reportUnknown).stack = s.stack := rfl
@[simp] theorem State.reportUnknown_sp : (s.reportUnknown).sp = s.sp := rfl
@[simp] theorem State.reportUnknown_dt : (s.reportUnknown).dt = s.dt := rfl
@[simp] theorem State.reportUnknown_st : (s.reportUnknown).st = s.st := rfl
@[simp] theorem State.reportUnknown_keys : (s.reportUnknown).keys = s.keys := rfl
@[simp] theorem State.reportUnknown_fb : (s.reportUnknown).fb = s.fb := rfl
@[simp] theorem State.reportUnknown_mem : (s.reportUnknown).mem = s.mem := rfl
@[simp] theorem State.reportUnknown_rnd : (s.reportUnknown).rnd = s.rnd := rfl
@[simp] theorem State.reportUnknown_draws : (s.reportUnknown).draws = s.draws := rfl
@[simp] theorem State.reportUnknown_draw : (s.reportUnknown).draw = s.draw := rfl
@[simp] theorem State.reportUnknown_unknown : (s.reportUnknown).unknown = true := rfl
@[simp] theorem State.reportUnknown_pending : (s.reportUnknown).pending = s.pending := rfl

/-! ### `consumeRnd` -/

@[simp] theorem State.consumeRnd_v : (s.consumeRnd).v = s.v := rfl
@[simp] theorem State.consumeRnd_pc : (s.consumeRnd).pc = s.pc := rfl
@[simp] theorem State.consumeRnd_i : (s.consumeRnd).i = s.i := rfl
@[simp] theorem State.consumeRnd_stack : (s.consumeRnd).stack = s.stack := rfl
@[simp] theorem State.consumeRnd_sp : (s.consumeRnd).sp = s.sp := rfl
@[simp] theorem State.consumeRnd_dt : (s.consumeRnd).dt = s.dt := rfl
@[simp] theorem State.consumeRnd_st : (s.consumeRnd).st = s.st := rfl
@[simp] theorem State.consumeRnd_keys : (s.consumeRnd).keys = s.keys := rfl
@[simp] theorem State.consumeRnd_fb : (s.consumeRnd).fb = s.fb := rfl
@[simp] theorem State.consumeRnd_mem : (s.consumeRnd).mem = s.mem := rfl
@[simp] theorem State.consumeRnd_rnd : (s.consumeRnd).rnd = s.rnd := rfl
@[simp] theorem State.consumeRnd_draws : (s.consumeRnd).draws = if s.rnd.isNone then s.draws + 1 else s.draws := rfl
@[simp] theorem State.consumeRnd_draw : (s.consumeRnd).draw = s.draw := rfl
@[simp] theorem State.consumeRnd_unknown : (s.consumeRnd).unknown = s.unknown := rfl
@[simp] theorem State.consumeRnd_pending : (s.consumeRnd).pending = s.pending := rfl

/-! ### `tick` -/

@[simp] theorem State.tick_v : (s.tick).v = s.v := rfl
@[simp] theorem State.tick_pc : (s.tick).pc = s.pc := rfl
@[simp] theorem State.tick_i : (s.tick).i = s.i := rfl
@[simp] theorem State.tick_stack : (s.tick).stack = s.stack := rfl
@[simp] theorem State.tick_sp : (s.tick).sp = s.sp := rfl
@[simp] theorem State.tick_dt : (s.tick).dt = countDown s.dt := rfl
@[simp] theorem State.tick_st : (s.tick).st = countDown s.st := rfl
@[simp] theorem State.tick_keys : (s.tick).keys = s.keys := rfl
@[simp] theorem State.tick_fb : (s.tick).fb = s.fb := rfl
@[simp] theorem State.tick_mem : (s.tick).mem = s.mem := rfl
@[simp] theorem State.tick_rnd : (s.tick).rnd = s.rnd := rfl
@[simp] theorem State.tick_draws : (s.tick).draws = s.draws := rfl
@[simp] theorem State.tick_draw : (s.tick).draw = s.draw := rfl
@[simp] theorem State.tick_unknown : (s.tick).unknown = s.unknown := rfl
@[simp] theorem State.tick_pending : (s.tick).pending = s.pending := rfl

/-! ### `setKey` -/

@[simp] theorem State.setKey_v (k : Fin 16) (p : Bool) : (s.setKey k p).v = s.v := rfl
@[simp] theorem State.setKey_pc (k : Fin 16) (p : Bool) : (s.setKey k p).pc = s.pc := rfl
@[simp] theorem State.setKey_i (k : Fin 16) (p : Bool) : (s.setKey k p).i = s.i := rfl
@[simp] theorem State.setKey_stack (k : Fin 16) (p : Bool) : (s.setKey k p).stack = s.stack := rfl
@[simp] theorem State.setKey_sp (k : Fin 16) (p : Bool) : (s.setKey k p).sp = s.sp := rfl
@[simp] theorem State.setKey_dt (k : Fin 16) (p : Bool) : (s.setKey k p).dt = s.dt := rfl
@[simp] theorem State.setKey_st (k : Fin 16) (p : Bool) : (s.setKey k p).st = s.st := rfl
@[simp] theorem State.setKey_keys (k : Fin 16) (p : Bool) : (s.setKey k p).keys = s.keys.set k p := rfl
@[simp] theorem State.setKey_fb (k : Fin 16) (p : Bool) : (s.setKey k p).fb = s.fb := rfl
@[simp] theorem State.setKey_mem (k : Fin 16) (p : Bool) : (s.setKey k p).mem = s.mem := rfl
@[simp] theorem State.setKey_rnd (k : Fin 16) (p : Bool) : (s.setKey k p).rnd = s.rnd := rfl
@[simp] theorem State.setKey_draws (k : Fin 16) (p : Bool) : (s.setKey k p).draws = s.draws := rfl
@[simp] theorem State.setKey_draw (k : Fin 16) (p : Bool) : (s.setKey k p).draw = s.draw := rfl
@[simp] theorem State.setKey_unknown (k : Fin 16) (p : Bool) : (s.setKey k p).unknown = s.unknown := rfl
@[simp] theorem State.setKey_pending (k : Fin 16) (p : Bool) : (s.setKey k p).pending = s.pending := rfl

/-! ### `advanceSkip` -/

@[simp] theorem State.advanceSkip_v (c : Bool) : (s.advanceSkip c).v = s.v := by
  cases c <;> rfl
@[simp] theorem State.advanceSkip_pc (c : Bool) :
    (s.advanceSkip c).pc = s.pc + if c then 4 else 2 := by
  cases c <;> simp [State.advanceSkip, BitVec.add_assoc]
@[simp] theorem State.advanceSkip_i (c : Bool) : (s.advanceSkip c).i = s.i := by
  cases c <;> rfl
@[simp] theorem State.advanceSkip_stack (c : Bool) : (s.advanceSkip c).stack = s.stack := by
  cases c <;> rfl
@[simp] theorem State.advanceSkip_sp (c : Bool) : (s.advanceSkip c).sp = s.sp := by
  cases c <;> rfl
@[simp] theorem State.advanceSkip_dt (c : Bool) : (s.advanceSkip c).dt = s.dt := by
  cases c <;> rfl
@[simp] theorem State.advanceSkip_st (c : Bool) : (s.advanceSkip c).st = s.st := by
  cases c <;> rfl
@[simp] theorem State.advanceSkip_keys (c : Bool) : (s.advanceSkip c).keys = s.keys := by
  cases c <;> rfl
@[simp] theorem State.advanceSkip_fb (c : Bool) : (s.advanceSkip c).fb = s.fb := by
  cases c <;> rfl
@[simp] theorem State.advanceSkip_mem (c : Bool) : (s.advanceSkip c).mem = s.mem := by
  cases c <;> rfl
@[simp] theorem State.advanceSkip_rnd (c : Bool) : (s.advanceSkip c).rnd = s.rnd := by
  cases c <;> rfl
@[simp] theorem State.advanceSkip_draws (c : Bool) : (s.advanceSkip c).draws = s.draws := by
  cases c <;> rfl
@[simp] theorem State.advanceSkip_draw (c : Bool) : (s.advanceSkip c).draw = s.draw := by
  cases c <;> rfl
@[simp] theorem State.advanceSkip_unknown (c : Bool) : (s.advanceSkip c).unknown = s.unknown := by
  cases c <;> rfl
@[simp] theorem State.advanceSkip_pending (c : Bool) : (s.advanceSkip c).pending = s.pending := by
  cases c <;> rfl

/-- A skip as one update of pc (R61). -/
theorem State.advanceSkip_eq (c : Bool) :
    s.advanceSkip c = { s with pc := s.pc + if c then 4 else 2 } := by
  cases c <;> simp [State.advanceSkip, State.advance, BitVec.add_assoc]

/-! ### Registers -/

@[simp] theorem State.reg_setV_same (x : Reg) (b : Byte) : (s.setV x b).reg x = b := by
  simp [State.reg]

theorem State.reg_setV_other (x r : Reg) (b : Byte) (h : r ≠ x) : (s.setV x b).reg r = s.reg r := by
  have : x.val ≠ r.val := fun e => h (Fin.ext e.symm)
  simp [State.reg, this]

/-- Every register after a write of one. -/
theorem State.reg_setV (x r : Reg) (b : Byte) :
    (s.setV x b).reg r = if r = x then b else s.reg r := by
  by_cases h : r = x
  · subst h; simp
  · simp [h, State.reg_setV_other]

end Sys2Proof.Machine
end

