-- ==== Sys2Proof/Laws/Exec.lean ====
section
/-! SUPPORT. One lemma per shared operation of the meanings, fetch and the step: what it answers and
when. -/

namespace Sys2Proof.Machine

variable (s : State)

/-! ### Fetch (R35) and the start of a STEP (R60) -/

theorem State.fetch_ok (h : s.pc.toNat ≤ 4094) :
    s.fetch = .next (wordOfBytes (s.mem.read s.pc.toNat) (s.mem.read (s.pc.toNat + 1))) := by
  have : ¬s.pc.toNat > Config.fetchTop := by simp only [Config.fetchTop]; omega
  simp only [State.fetch, this, if_false]

theorem State.fetch_fault (h : s.pc.toNat > 4094) : s.fetch = .fault (.pcOutOfRange s.pc) := by
  have : s.pc.toNat > Config.fetchTop := h
  simp only [State.fetch, this, if_true, raise]

@[simp] theorem State.fetch_beginStep (r : Option Byte) : (s.beginStep r).fetch = s.fetch := rfl

/-- Everything a STEP can do: execute the word it fetches, or fault at the fetch. -/
theorem stepWith_cases (r : Option Byte) :
    (s.pc.toNat ≤ 4094 ∧ stepWith r s = exec
      (decode (wordOfBytes (s.mem.read s.pc.toNat) (s.mem.read (s.pc.toNat + 1)))) (s.beginStep r)) ∨
    (s.pc.toNat > 4094 ∧ stepWith r s = .fault (.pcOutOfRange s.pc)) := by
  by_cases h : s.pc.toNat ≤ 4094
  · left
    simp [stepWith, s.fetch_ok h, h]
  · right
    have h' : s.pc.toNat > 4094 := by omega
    simp [stepWith, s.fetch_fault h', h']

/-! ### The bounds check of a data access (R36) -/

theorem State.checkTop_ok {last : Nat} (r : Result) (h : s.i.toNat + last ≤ 4095) :
    s.checkTop last r = r := by
  have : ¬s.i.toNat + last > Config.memTop := by simp only [Config.memTop]; omega
  simp only [State.checkTop, this, if_false]

theorem State.checkTop_fault {last : Nat} (r : Result) (h : s.i.toNat + last > 4095) :
    s.checkTop last r = .fault (.memoryOutOfRange s.i) := by
  have : s.i.toNat + last > Config.memTop := h
  simp only [State.checkTop, this, if_true, raise]

/-! ### Register blocks (R84, R85), digits (R83) -/

theorem State.regsUpTo_length (x : Reg) : (s.regsUpTo x).length = x.val + 1 := by
  have := x.isLt
  simp only [State.regsUpTo, List.length_take, Vector.length_toList]
  omega

theorem State.regsUpTo_get (x j : Reg) (h : j.val < (s.regsUpTo x).length) :
    (s.regsUpTo x)[j.val] = s.v[j] := by
  simp [State.regsUpTo]

theorem State.loadUpTo_get (x r : Reg) :
    (s.loadUpTo x)[r] = if r ≤ x then s.mem.read (s.i.toNat + r.val) else s.v[r] := by
  rw [State.loadUpTo, Fin.getElem_fin, Vector.getElem_ofFn]
  rfl

@[simp] theorem decimalDigits_length (b : Byte) : (decimalDigits b).length = 3 := rfl

/-! ### Keys (R94) -/

theorem State.leastKey_none : s.leastKey = none ↔ ∀ j : Fin 16, s.keys[j] = false := by
  rw [State.leastKey, List.find?_eq_none]
  constructor
  · intro h j
    exact Bool.not_eq_true _ ▸ h j (List.mem_finRange j)
  · intro h j _
    exact ne_true_of_eq_false (h j)

theorem State.leastKey_some (j : Fin 16) :
    s.leastKey = some j ↔ s.keys[j] = true ∧ ∀ k : Fin 16, k < j → s.keys[k] = false := by
  rw [State.leastKey, List.find?_eq_some_iff_getElem]
  constructor
  · rintro ⟨hj, i, hi, hij, h⟩
    refine ⟨hj, fun k hk => ?_⟩
    have hik : i = j.val := by rw [← hij]; simp
    have := h k.val (by rw [hik]; exact hk)
    simpa [State.key] using this
  · rintro ⟨hj, h⟩
    refine ⟨hj, j.val, by simp, by simp, fun k hk => ?_⟩
    have := h ⟨k, by omega⟩ hk
    simpa [State.key] using this

end Sys2Proof.Machine
end

