-- ==== Sys2Proof/Laws/PerInstr.lean ====
section
/-! SUPPORT. The family `EncodeSelectsRow`, one lemma per constructor: the word of an instruction
matches the row of the opcode map that the instruction stands in (spec 30_encoding.md R49, R51). -/

namespace Sys2Proof

/-! ### Masked words of each format -/

theorem encNNN_and_F000 (op : BitVec 4) (nnn : Imm12) : encNNN op nnn &&& 0xF000 = op ++ 0#12 := by
  have h : encNNN op nnn &&& 0xF000 = (op &&& 0xF) ++ (nnn &&& 0#12) := by
    rw [← append_and]; rfl
  rw [h, and_ones, BitVec.and_zero]

theorem encXNN_and_F000 (op : BitVec 4) (x : Reg) (nn : Byte) :
    encXNN op x nn &&& 0xF000 = op ++ 0#4 ++ 0#8 := by
  have h : encXNN op x nn &&& 0xF000 = (op &&& 0xF) ++ (nibble x &&& 0#4) ++ (nn &&& 0#8) := by
    rw [← append_and, ← append_and]; rfl
  rw [h, and_ones, BitVec.and_zero, BitVec.and_zero]

theorem encXNN_and_F0FF (op : BitVec 4) (x : Reg) (nn : Byte) :
    encXNN op x nn &&& 0xF0FF = op ++ 0#4 ++ nn := by
  have h : encXNN op x nn &&& 0xF0FF =
      (op &&& 0xF) ++ (nibble x &&& 0#4) ++ (nn &&& BitVec.allOnes 8) := by
    rw [← append_and, ← append_and]; rfl
  rw [h, and_ones, BitVec.and_zero, BitVec.and_allOnes]

theorem encXYN_and_F000 (op : BitVec 4) (x y n : Fin 16) :
    encXYN op x y n &&& 0xF000 = op ++ 0#4 ++ 0#4 ++ 0#4 := by
  have h : encXYN op x y n &&& 0xF000 =
      (op &&& 0xF) ++ (nibble x &&& 0#4) ++ (nibble y &&& 0#4) ++ (nibble n &&& 0#4) :=
    encXYN_and op 0xF x 0 y 0 n 0
  rw [h, and_ones, BitVec.and_zero, BitVec.and_zero, BitVec.and_zero]

theorem encXYN_and_F00F (op : BitVec 4) (x y n : Fin 16) :
    encXYN op x y n &&& 0xF00F = op ++ 0#4 ++ 0#4 ++ nibble n := by
  have h : encXYN op x y n &&& 0xF00F =
      (op &&& 0xF) ++ (nibble x &&& 0#4) ++ (nibble y &&& 0#4) ++ (nibble n &&& 0xF) :=
    encXYN_and op 0xF x 0 y 0 n 15
  rw [h, and_ones, and_ones, BitVec.and_zero, BitVec.and_zero]

namespace Laws.EncodeSelectsRow

/-- The row of R51 that `i` stands in matches the word of `i`. -/
def Statement (i : Instr) : Prop :=
  ∀ k, i.rowNumber = some k → ∃ r, opcodeMap[k - 1]? = some r ∧ r.num = k ∧ encode i &&& r.mask = r.mtch

/-- How one constructor's lemma goes: its row, and the masked word of its format. -/
theorem of_row {i : Instr} {k : Nat} (r : MapRow) (hk : i.rowNumber = some k)
    (hr : opcodeMap[k - 1]? = some r ∧ r.num = k) (hm : encode i &&& r.mask = r.mtch) :
    Statement i := by
  intro k' hk'
  rw [hk] at hk'
  cases hk'
  exact ⟨r, hr.1, hr.2, hm⟩

theorem cls : Statement .cls := of_row ⟨1, "00E0", 0x00E0, 0xFFFF⟩ rfl ⟨rfl, rfl⟩ rfl
theorem ret : Statement .ret := of_row ⟨2, "00EE", 0x00EE, 0xFFFF⟩ rfl ⟨rfl, rfl⟩ rfl
theorem jp (a : Imm12) : Statement (.jp a) :=
  of_row ⟨3, "1nnn", 0x1000, 0xF000⟩ rfl ⟨rfl, rfl⟩ (encNNN_and_F000 0x1 a)
theorem call (a : Imm12) : Statement (.call a) :=
  of_row ⟨4, "2nnn", 0x2000, 0xF000⟩ rfl ⟨rfl, rfl⟩ (encNNN_and_F000 0x2 a)
theorem seImm (x : Reg) (nn : Byte) : Statement (.seImm x nn) :=
  of_row ⟨5, "3xnn", 0x3000, 0xF000⟩ rfl ⟨rfl, rfl⟩ (encXNN_and_F000 0x3 x nn)
theorem sneImm (x : Reg) (nn : Byte) : Statement (.sneImm x nn) :=
  of_row ⟨6, "4xnn", 0x4000, 0xF000⟩ rfl ⟨rfl, rfl⟩ (encXNN_and_F000 0x4 x nn)
theorem seReg (x y : Reg) : Statement (.seReg x y) :=
  of_row ⟨7, "5xy0", 0x5000, 0xF00F⟩ rfl ⟨rfl, rfl⟩ (encXYN_and_F00F 0x5 x y 0x0)
theorem ldImm (x : Reg) (nn : Byte) : Statement (.ldImm x nn) :=
  of_row ⟨8, "6xnn", 0x6000, 0xF000⟩ rfl ⟨rfl, rfl⟩ (encXNN_and_F000 0x6 x nn)
theorem addImm (x : Reg) (nn : Byte) : Statement (.addImm x nn) :=
  of_row ⟨9, "7xnn", 0x7000, 0xF000⟩ rfl ⟨rfl, rfl⟩ (encXNN_and_F000 0x7 x nn)
theorem ldReg (x y : Reg) : Statement (.ldReg x y) :=
  of_row ⟨10, "8xy0", 0x8000, 0xF00F⟩ rfl ⟨rfl, rfl⟩ (encXYN_and_F00F 0x8 x y 0x0)
theorem orReg (x y : Reg) : Statement (.orReg x y) :=
  of_row ⟨11, "8xy1", 0x8001, 0xF00F⟩ rfl ⟨rfl, rfl⟩ (encXYN_and_F00F 0x8 x y 0x1)
theorem andReg (x y : Reg) : Statement (.andReg x y) :=
  of_row ⟨12, "8xy2", 0x8002, 0xF00F⟩ rfl ⟨rfl, rfl⟩ (encXYN_and_F00F 0x8 x y 0x2)
theorem xorReg (x y : Reg) : Statement (.xorReg x y) :=
  of_row ⟨13, "8xy3", 0x8003, 0xF00F⟩ rfl ⟨rfl, rfl⟩ (encXYN_and_F00F 0x8 x y 0x3)
theorem addReg (x y : Reg) : Statement (.addReg x y) :=
  of_row ⟨14, "8xy4", 0x8004, 0xF00F⟩ rfl ⟨rfl, rfl⟩ (encXYN_and_F00F 0x8 x y 0x4)
theorem subReg (x y : Reg) : Statement (.subReg x y) :=
  of_row ⟨15, "8xy5", 0x8005, 0xF00F⟩ rfl ⟨rfl, rfl⟩ (encXYN_and_F00F 0x8 x y 0x5)
theorem sneReg (x y : Reg) : Statement (.sneReg x y) :=
  of_row ⟨16, "9xy0", 0x9000, 0xF00F⟩ rfl ⟨rfl, rfl⟩ (encXYN_and_F00F 0x9 x y 0x0)
theorem ldI (a : Imm12) : Statement (.ldI a) :=
  of_row ⟨17, "Annn", 0xA000, 0xF000⟩ rfl ⟨rfl, rfl⟩ (encNNN_and_F000 0xA a)
theorem rnd (x : Reg) (nn : Byte) : Statement (.rnd x nn) :=
  of_row ⟨18, "Cxnn", 0xC000, 0xF000⟩ rfl ⟨rfl, rfl⟩ (encXNN_and_F000 0xC x nn)
theorem drw (x y : Reg) (n : Fin 16) : Statement (.drw x y n) :=
  of_row ⟨19, "Dxyn", 0xD000, 0xF000⟩ rfl ⟨rfl, rfl⟩ (encXYN_and_F000 0xD x y n)
theorem skp (x : Reg) : Statement (.skp x) :=
  of_row ⟨20, "Ex9E", 0xE09E, 0xF0FF⟩ rfl ⟨rfl, rfl⟩ (encXNN_and_F0FF 0xE x 0x9E)
theorem sknp (x : Reg) : Statement (.sknp x) :=
  of_row ⟨21, "ExA1", 0xE0A1, 0xF0FF⟩ rfl ⟨rfl, rfl⟩ (encXNN_and_F0FF 0xE x 0xA1)
theorem ldFromDt (x : Reg) : Statement (.ldFromDt x) :=
  of_row ⟨22, "Fx07", 0xF007, 0xF0FF⟩ rfl ⟨rfl, rfl⟩ (encXNN_and_F0FF 0xF x 0x07)
theorem ldKey (x : Reg) : Statement (.ldKey x) :=
  of_row ⟨23, "Fx0A", 0xF00A, 0xF0FF⟩ rfl ⟨rfl, rfl⟩ (encXNN_and_F0FF 0xF x 0x0A)
theorem ldToDt (x : Reg) : Statement (.ldToDt x) :=
  of_row ⟨24, "Fx15", 0xF015, 0xF0FF⟩ rfl ⟨rfl, rfl⟩ (encXNN_and_F0FF 0xF x 0x15)
theorem addI (x : Reg) : Statement (.addI x) :=
  of_row ⟨25, "Fx1E", 0xF01E, 0xF0FF⟩ rfl ⟨rfl, rfl⟩ (encXNN_and_F0FF 0xF x 0x1E)
theorem ldFont (x : Reg) : Statement (.ldFont x) :=
  of_row ⟨26, "Fx29", 0xF029, 0xF0FF⟩ rfl ⟨rfl, rfl⟩ (encXNN_and_F0FF 0xF x 0x29)
theorem ldBcd (x : Reg) : Statement (.ldBcd x) :=
  of_row ⟨27, "Fx33", 0xF033, 0xF0FF⟩ rfl ⟨rfl, rfl⟩ (encXNN_and_F0FF 0xF x 0x33)
theorem storeRegs (x : Reg) : Statement (.storeRegs x) :=
  of_row ⟨28, "Fx55", 0xF055, 0xF0FF⟩ rfl ⟨rfl, rfl⟩ (encXNN_and_F0FF 0xF x 0x55)
theorem loadRegs (x : Reg) : Statement (.loadRegs x) :=
  of_row ⟨29, "Fx65", 0xF065, 0xF0FF⟩ rfl ⟨rfl, rfl⟩ (encXNN_and_F0FF 0xF x 0x65)
/-- The unknown opcode stands in no row. -/
theorem unknown (w : Word) : Statement (.unknown w) := fun _ h => nomatch h

end Laws.EncodeSelectsRow

end Sys2Proof
end

