-- ==== Sys2Proof/Laws/Schedule.lean ====
section
/-! SUPPORT. Runs of events, event by event, and what a frame of the reference schedule does. -/

namespace Sys2Proof.Machine

variable (s : State)

/-! ### Runs of events (R5, R40) -/

@[simp] theorem State.after_tick : s.after .tick = s.tick := rfl
@[simp] theorem State.after_setKey (k : Fin 16) (p : Bool) : s.after (.setKey k p) = s.setKey k p := rfl
@[simp] theorem State.after_fbRead : s.after .fbRead = s := rfl

@[simp] theorem runEvents_nil : runEvents [] s = s := rfl
@[simp] theorem runEvents_cons (e : Event) (es : List Event) :
    runEvents (e :: es) s = runEvents es (s.after e) := rfl
theorem runEvents_append (es es' : List Event) :
    runEvents (es ++ es') s = runEvents es' (runEvents es s) := List.foldl_append ..

@[simp] theorem runFrames_nil : runFrames [] s = s := rfl
@[simp] theorem runFrames_cons (f : FrameInput) (fs : List FrameInput) :
    runFrames (f :: fs) s = runFrames fs (runFrame f s) := rfl

/-! ### The SETKEYs of a frame change nothing but keys (R110) -/

theorem runEvents_setKeys (ks : List (Fin 16 × Bool)) : ∃ keys : Vector Bool 16,
    runEvents (ks.map fun c => .setKey c.1 c.2) s = { s with keys := keys } := by
  induction ks generalizing s with
  | nil => exact ⟨s.keys, rfl⟩
  | cons c ks ih => exact ih (s.setKey c.1 c.2)

/-! ### The presentation of a frame changes nothing (R112) -/

@[simp] theorem runEvents_presentation (draw : Bool) : runEvents (presentation draw) s = s := by
  cases draw <;> rfl

theorem reportsDraw_iff (rnd : Byte) :
    reportsDraw rnd s = true ↔ ∃ u, stepResult rnd s = some (.ok true u) := by
  unfold reportsDraw
  split
  · next d u h => simp [h]
  · next h => simp only [Bool.false_eq_true, false_iff]; rintro ⟨u, hu⟩; exact h _ _ hu

end Sys2Proof.Machine
end

