-- ==== Sys2Proof/Tests/Slice0.lean ====
section
/-! SUPPORT. Tests and witnesses. Expected results come from spec/95_test_vectors.md (the vector is
named beside each test) or from the pattern column of spec/30_encoding.md R51. -/

namespace Sys2Proof.Tests

open Sys2Proof Sys2Proof.Machine

/-! ### Helpers -/

/-- The state after `LOAD` of the empty image with some registers set. -/
def regs (l : List (Reg × Byte)) : State := l.foldl (fun s e => s.setV e.1 e.2) State.reset

/-- Some bytes stored at rising addresses. -/
def bytes (s : State) (a : Nat) (bs : List Byte) : State := s.setMem (s.mem.writeBytes a bs)

/-- The result is a next state that passes `p`. -/
def completes (r : Result) (p : State → Bool) : Bool :=
  match r with
  | .next t => p t
  | _ => false

/-- The result is the fault `f`. -/
def faults (r : Result) (f : Fault) : Bool :=
  match r with
  | .fault g => g == f
  | _ => false

/-- A framebuffer with some cells lit. -/
def screen (l : List (Nat × Nat)) : Framebuffer :=
  l.foldl (fun fb c => fb.flip (Fin.ofNat 64 c.1) (Fin.ofNat 32 c.2)) Framebuffer.clear

/-! ### Well-formedness: each check refuses an ill-formed term -/

theorem test_wf_refuses_unknown_cls : (Instr.unknown 0x00E0).wf = false := by decide
theorem test_wf_refuses_unknown_jump : (Instr.unknown 0x1234).wf = false := by decide
theorem test_wf_refuses_unknown_skip : (Instr.unknown 0x5120).wf = false := by decide
theorem test_wf_refuses_unknown_alu : (Instr.unknown 0x8125).wf = false := by decide
theorem test_wf_refuses_unknown_skip_not : (Instr.unknown 0x9AB0).wf = false := by decide
theorem test_wf_refuses_unknown_key : (Instr.unknown 0xE1A1).wf = false := by decide
theorem test_wf_refuses_unknown_memory : (Instr.unknown 0xF165).wf = false := by decide
theorem test_wf_accepts_unknown : (Instr.unknown 0x8126).wf = true := by decide

/-! ### Decoding: one word per constructor, written from its pattern (R51) -/

theorem test_decode_cls : decode 0b0000000011100000 = .cls := by decide
theorem test_decode_ret : decode 0b0000000011101110 = .ret := by decide
theorem test_decode_jp : decode 0b0001_100001011000 = .jp 0x858 := by decide
theorem test_decode_call : decode 0b0010_101010111100 = .call 0xABC := by decide
theorem test_decode_seImm : decode 0b0011_0011_00110100 = .seImm 3 0x34 := by decide
theorem test_decode_sneImm : decode 0b0100_0011_10101011 = .sneImm 3 0xAB := by decide
theorem test_decode_seReg : decode 0b0101_0011_1000_0000 = .seReg 3 8 := by decide
theorem test_decode_ldImm : decode 0b0110_1111_10101011 = .ldImm 15 0xAB := by decide
theorem test_decode_addImm : decode 0b0111_1010_11111111 = .addImm 10 0xFF := by decide
theorem test_decode_ldReg : decode 0b1000_0110_0011_0000 = .ldReg 6 3 := by decide
theorem test_decode_orReg : decode 0b1000_0010_0111_0001 = .orReg 2 7 := by decide
theorem test_decode_andReg : decode 0b1000_0010_0111_0010 = .andReg 2 7 := by decide
theorem test_decode_xorReg : decode 0b1000_0010_0111_0011 = .xorReg 2 7 := by decide
theorem test_decode_addReg : decode 0b1000_0010_0111_0100 = .addReg 2 7 := by decide
theorem test_decode_subReg : decode 0b1000_1010_1011_0101 = .subReg 10 11 := by decide
theorem test_decode_sneReg : decode 0b1001_0011_0101_0000 = .sneReg 3 5 := by decide
theorem test_decode_ldI : decode 0b1010_001011110000 = .ldI 0x2F0 := by decide
theorem test_decode_rnd : decode 0b1100_0011_00001111 = .rnd 3 0x0F := by decide
theorem test_decode_drw : decode 0b1101_0001_0010_0101 = .drw 1 2 5 := by decide
theorem test_decode_skp : decode 0b1110_0101_10011110 = .skp 5 := by decide
theorem test_decode_sknp : decode 0b1110_0101_10100001 = .sknp 5 := by decide
theorem test_decode_ldFromDt : decode 0b1111_0010_00000111 = .ldFromDt 2 := by decide
theorem test_decode_ldKey : decode 0b1111_0110_00001010 = .ldKey 6 := by decide
theorem test_decode_ldToDt : decode 0b1111_0010_00010101 = .ldToDt 2 := by decide
theorem test_decode_addI : decode 0b1111_0010_00011110 = .addI 2 := by decide
theorem test_decode_ldFont : decode 0b1111_0100_00101001 = .ldFont 4 := by decide
theorem test_decode_ldBcd : decode 0b1111_0000_00110011 = .ldBcd 0 := by decide
theorem test_decode_storeRegs : decode 0b1111_0010_01010101 = .storeRegs 2 := by decide
theorem test_decode_loadRegs : decode 0b1111_0010_01100101 = .loadRegs 2 := by decide
theorem test_decode_unknown_fixed : decode 0x01E0 = .unknown 0x01E0 := by decide
theorem test_decode_unknown_shift : decode 0x8126 = .unknown 0x8126 := by decide
theorem test_decode_unknown_sound : decode 0xF118 = .unknown 0xF118 := by decide

theorem test_decode_bytes_high_first :
    decodeBytes [0x12, 0x34, 0x56] = .ok (.jp 0x234, [0x56]) := by decide
theorem test_decode_bytes_truncated : decodeBytes [0x12] = .error .truncated := by decide
theorem test_decode_table_word : decodeTableWord 16 0xD125 = some (.drw 1 2 5) := by decide
theorem test_opcode_map_has_29_rows : opcodeMap.length = 29 := by decide

/-! ### Control flow (S3 to S8, C-1 to C-16) -/

-- S3
theorem test_ret : completes (exec .ret
    { State.reset with sp := 1, stack := State.reset.stack.set 0 0xABCD })
    (fun t => t.pc == 0xABCF && t.sp == 0 && t.stack[0] == 0xABCD) = true := by decide
-- C-2
theorem test_ret_empty :
    faults (exec .ret { State.reset with pc := 0x300 }) (.stackUnderflow 0x0300) = true := by decide
-- S4
theorem test_jp : completes (exec (.jp 0x858) { State.reset with pc := 0x3456 })
    (fun t => t.pc == 0x0858) = true := by decide
-- S5
theorem test_call : completes (exec (.call 0x858) { State.reset with pc := 0x8F3E })
    (fun t => t.pc == 0x0858 && t.sp == 1 && t.stack[0] == 0x8F3E) = true := by decide
-- C-5
theorem test_call_full : faults (exec (.call 0xABC) { State.reset with pc := 0x246, sp := 16 })
    (.stackOverflow 0x0246) = true := by decide
-- S6
theorem test_seImm_taken : completes (exec (.seImm 3 0x34) { regs [(3, 0x34)] with pc := 0x3456 })
    (fun t => t.pc == 0x345A) = true := by decide
theorem test_seImm_not_taken : completes (exec (.seImm 3 0xAB) { regs [(3, 0x34)] with pc := 0x345A })
    (fun t => t.pc == 0x345C) = true := by decide
-- S7
theorem test_sneImm_equal : completes (exec (.sneImm 3 0x34) (regs [(3, 0x34)]))
    (fun t => t.pc == 0x202) = true := by decide
theorem test_sneImm_different : completes (exec (.sneImm 3 0xAB) (regs [(3, 0x34)]))
    (fun t => t.pc == 0x204) = true := by decide
-- S8
theorem test_seReg : completes (exec (.seReg 3 8) (regs [(3, 0x45), (5, 0x28), (8, 0x45)]))
    (fun t => t.pc == 0x204) = true := by decide
theorem test_sneReg : completes (exec (.sneReg 3 5) (regs [(3, 0x45), (5, 0x28), (8, 0x45)]))
    (fun t => t.pc == 0x204) = true := by decide
-- C-13
theorem test_sneReg_same : completes (exec (.sneReg 10 10) (regs [(10, 7)]))
    (fun t => t.pc == 0x202) = true := by decide
-- C-8
theorem test_step_skip_from_top :
    completes (step (bytes { State.reset with pc := 4094 } 4094 [0x3A, 0x00]))
    (fun t => t.pc == 4098) = true := by decide
-- C-15
theorem test_step_at_4095 :
    faults (step { State.reset with pc := 4095 }) (.pcOutOfRange 0x0FFF) = true := by decide
-- C-16
theorem test_step_odd :
    completes (step (bytes { State.reset with pc := 0x201 } 0x201 [0x6A, 0x55]))
    (fun t => t.v[10] == 0x55 && t.pc == 0x203) = true := by decide

/-! ### Arithmetic (S9 to S13, A-1 to A-38) -/

-- A-1
theorem test_ldImm_vf : completes (exec (.ldImm 15 0xAB) State.reset)
    (fun t => t.v[15] == 0xAB) = true := by decide
-- A-2, A-4
theorem test_addImm_vf : completes (exec (.addImm 15 0x02) (regs [(15, 0xFF)]))
    (fun t => t.v[15] == 0x01) = true := by decide
theorem test_addImm_keeps_vf : completes (exec (.addImm 10 0xFF) (regs [(10, 0), (15, 1)]))
    (fun t => t.v[10] == 0xFF && t.v[15] == 1) = true := by decide
-- S11
theorem test_ldReg : completes (exec (.ldReg 6 3) (regs [(3, 9), (6, 1)]))
    (fun t => t.v[6] == 9 && t.v[3] == 9) = true := by decide
-- A-6, A-7, A-8, A-9
theorem test_orReg : completes (exec (.orReg 10 11) (regs [(10, 0x55), (11, 0xAA), (15, 7)]))
    (fun t => t.v[10] == 0xFF && t.v[11] == 0xAA && t.v[15] == 7) = true := by decide
theorem test_andReg : completes (exec (.andReg 10 11) (regs [(10, 0x5F), (11, 0xAA), (15, 7)]))
    (fun t => t.v[10] == 0x0A && t.v[15] == 7) = true := by decide
theorem test_xorReg : completes (exec (.xorReg 10 11) (regs [(10, 0x5F), (11, 0xAA), (15, 7)]))
    (fun t => t.v[10] == 0xF5 && t.v[15] == 7) = true := by decide
theorem test_xorReg_self : completes (exec (.xorReg 10 10) (regs [(10, 0x5F)]))
    (fun t => t.v[10] == 0) = true := by decide
-- A-16, A-18
theorem test_addReg_y_vf : completes (exec (.addReg 1 15) (regs [(1, 0xF0), (15, 0x20)]))
    (fun t => t.v[15] == 1 && t.v[1] == 0xF1) = true := by decide
theorem test_addReg_x_vf : completes (exec (.addReg 15 1) (regs [(1, 0x20), (15, 0xF0)]))
    (fun t => t.v[15] == 0x21) = true := by decide
-- A-22, A-32
theorem test_subReg_borrow : completes (exec (.subReg 10 11) (regs [(10, 0x10), (11, 0x30)]))
    (fun t => t.v[10] == 0xE0 && t.v[15] == 0) = true := by decide
theorem test_subReg_x_vf : completes (exec (.subReg 15 1) (regs [(1, 0x05), (15, 0x10)]))
    (fun t => t.v[15] == 0xFC) = true := by decide
-- A-36
theorem test_rnd : completes (exec (.rnd 3 0x0F) { State.reset with rnd := some 0xA7 })
    (fun t => t.v[3] == 0x07) = true := by decide
theorem test_rnd_step : completes (step { bytes State.reset 0x200 [0xC3, 0x0F] with
    pending := [.step 0xA7] }) (fun t => t.v[3] == 0x07 && t.pc == 0x202) = true := by decide

/-! ### Index register and memory (M-1 to M-19) -/

-- M-1, M-3, M-6
theorem test_ldI : completes (exec (.ldI 0xFFF) State.reset) (fun t => t.i == 0x0FFF) = true := by
  decide
theorem test_addI : completes (exec (.addI 1) { regs [(1, 2), (15, 5)] with i := 0xFFFF })
    (fun t => t.i == 0x0001 && t.v[15] == 5) = true := by decide
theorem test_ldFont : completes (exec (.ldFont 1) (regs [(1, 0xFF)])) (fun t => t.i == 0x04FB) = true := by
  decide
-- M-10, M-11
theorem test_ldBcd : completes (exec (.ldBcd 1) { regs [(1, 99)] with i := 4093 })
    (fun t => t.mem.read 4093 == 0 && t.mem.read 4094 == 9 && t.mem.read 4095 == 9 && t.i == 4093)
    = true := by decide
theorem test_ldBcd_range : faults (exec (.ldBcd 1) { regs [(1, 99)] with i := 4094 })
    (.memoryOutOfRange 0x0FFE) = true := by decide
-- M-13, M-14
theorem test_storeRegs : completes (exec (.storeRegs 15) { regs [(0, 1), (15, 0xEE)] with i := 4080 })
    (fun t => t.mem == [(4080, 1), (4095, 0xEE)]) = true := by decide
theorem test_storeRegs_range : faults (exec (.storeRegs 15) { State.reset with i := 4081 })
    (.memoryOutOfRange 0x0FF1) = true := by decide
-- M-16, M-18
theorem test_loadRegs : completes (exec (.loadRegs 2)
    (bytes { regs [(3, 0x99)] with i := 0x300 } 0x300 [0x11, 0x22, 0x33, 0x44]))
    (fun t => t.v[0] == 0x11 && t.v[1] == 0x22 && t.v[2] == 0x33 && t.v[3] == 0x99 && t.i == 0x300)
    = true := by decide
theorem test_loadRegs_font : completes (exec (.loadRegs 4) State.reset)
    (fun t => t.v[0] == 0xF0 && t.v[1] == 0x90 && t.v[3] == 0x90 && t.v[4] == 0xF0) = true := by decide
-- M-19 and the canonical form: storing what is unlisted lists nothing
theorem test_store_in_font : (Memory.write [] 0 0x77).read 0 = 0x77 := by decide
theorem test_write_unlists : Memory.write (Memory.write [] 0 0x77) 0 0xF0 = [] := by decide

/-! ### Display (S2, D-1 to D-16) -/

-- D-15
theorem test_cls : completes (exec .cls { regs [(15, 1)] with fb := screen [(1, 1), (63, 31)] })
    (fun t => t.fb == Framebuffer.clear && t.v[15] == 1 && t.draw) = true := by decide
-- D-2
theorem test_drw_collision : completes (exec (.drw 0 1 2) (bytes
    { State.reset with i := 0x300, fb := screen [(0, 0), (5, 5)] } 0x300 [0xC0, 0x81]))
    (fun t => t.fb == screen [(1, 0), (0, 1), (7, 1), (5, 5)] && t.v[15] == 1 && t.draw) = true := by
  decide
-- D-8
theorem test_drw_wraps : completes (exec (.drw 0 1 5) (regs [(0, 62), (1, 30)])) (fun t => t.fb == screen
    [(62, 30), (63, 30), (0, 30), (1, 30), (62, 31), (1, 31), (62, 0), (1, 0), (62, 1), (1, 1),
     (62, 2), (63, 2), (0, 2), (1, 2)] && t.v[15] == 0) = true := by decide
-- D-10, D-12
theorem test_drw_column_in_vf : completes (exec (.drw 15 1 1) (bytes
    { regs [(15, 10), (1, 2)] with i := 0x300 } 0x300 [0x80]))
    (fun t => t.fb == screen [(10, 2)] && t.v[15] == 0) = true := by decide
theorem test_drw_range : faults (exec (.drw 0 1 7) { State.reset with i := 4090 })
    (.memoryOutOfRange 0x0FFA) = true := by decide

/-! ### Keys and timers (K-1 to K-14) -/

-- K-1, K-5
theorem test_skp : completes (exec (.skp 1) ((regs [(1, 5)]).setKey 5 true))
    (fun t => t.pc == 0x204) = true := by decide
theorem test_skp_range : faults (exec (.skp 1) ((regs [(1, 16)]).setKey 0 true))
    (.keyIndexOutOfRange 0x0010) = true := by decide
-- K-3, K-6
theorem test_sknp : completes (exec (.sknp 1) ((regs [(1, 5)]).setKey 5 true))
    (fun t => t.pc == 0x202) = true := by decide
theorem test_sknp_range : faults (exec (.sknp 1) (regs [(1, 255)]))
    (.keyIndexOutOfRange 0x00FF) = true := by decide
-- K-7, K-8
theorem test_ldKey_waits : completes (exec (.ldKey 3) (regs [(3, 9)]))
    (fun t => t == regs [(3, 9)]) = true := by decide
theorem test_ldKey_least : completes (exec (.ldKey 3)
    ((((regs [(3, 9)]).setKey 4 true).setKey 9 true).setKey 12 true))
    (fun t => t.v[3] == 4 && t.pc == 0x202) = true := by decide
-- K-10, K-11
theorem test_ldFromDt : completes (exec (.ldFromDt 3) { State.reset with dt := 0x42 })
    (fun t => t.v[3] == 0x42 && t.dt == 0x42) = true := by decide
theorem test_ldToDt : completes (exec (.ldToDt 3) (regs [(3, 0x42)]))
    (fun t => t.dt == 0x42) = true := by decide
-- K-12
theorem test_tick_floor : runEvents [.tick, .tick, .tick] { State.reset with dt := 2 } = State.reset := by
  decide
-- K-14
theorem test_setKey : runEvents [.setKey 7 true, .setKey 7 true, .setKey 7 false] State.reset
    = State.reset := by decide

/-! ### Unknown opcodes (U-1, U-7), LOAD (L-2, L-3), reset -/

theorem test_unknown_step : step State.reset =
    .next { State.reset with pc := 0x202, unknown := true } := by rfl
theorem test_unknown : completes (exec (.unknown 0x8126) (regs [(1, 4), (2, 8)]))
    (fun t => t == { regs [(1, 4), (2, 8)] with pc := 0x202, unknown := true }) = true := by decide
-- L-3
theorem test_load_one_byte : completes (applyEvent (.load [0x12]) State.reset)
    (fun t => t.mem == [(0x200, 0x12)] && completes (step t) (fun u => u.pc == 0x200)) = true := by decide
theorem test_reset_mem_wf : State.reset.mem.wf = true := by decide
theorem test_font_length : Config.font.length = 80 := by decide

/-! ### The reference schedule (R109) -/

theorem test_frame_with_draw : referenceFrame ⟨[(7, true)], 9⟩ (bytes State.reset 0x200 [0x00, 0xE0]) =
    [.setKey 7 true, .step 9, .fbRead, .tick] := by decide
-- a frame whose step draws nothing
theorem test_frame_without_draw : referenceFrame ⟨[], 9⟩ (bytes State.reset 0x200 [0xF0, 0x15]) =
    [.step 9, .tick] := by decide

/-! ### Witnesses: for each statement with hypotheses, values that meet them -/

theorem witness_EncodedInstructionDecodesBack :
    (Instr.drw 15 15 15).wf = true ∧ (Instr.unknown 0xB300).wf = true := by decide

theorem witness_DecoderSelectsTheMatchingRow :
    (⟨14, "8xy4", 0x8004, 0xF00F⟩ : MapRow) ∈ opcodeMap ∧ (0x8FF4 : Word) &&& 0xF00F = 0x8004 ∧
    ∀ r ∈ opcodeMap, (0x8FF6 : Word) &&& r.mask ≠ r.mtch := by decide

theorem witness_FixedNibblesAreMatchedExactly :
    decode 0x5FF0 = .seReg 15 15 ∧ decode 0x9000 = .sneReg 0 0 := by decide

/-- A state at pc with the events `es` lined up. -/
def placed (pc : Word) (es : List Event) : State := { State.reset with pc := pc, pending := es }

theorem witness_StepRunsTheDecodedInstruction :
    (placed 4094 []).pc.toNat ≤ 4094 ∧ (placed 4094 []).pending = [] ∧
    (placed 4094 [.step 7]).pc.toNat ≤ 4094 ∧ (placed 4094 [.step 7]).pending = [.step 7] := by decide

theorem witness_FetchIsTwoBytesHighByteFirst :
    (placed 4094 []).pc.toNat ≤ 4094 ∧ (placed 4095 []).pc.toNat > 4094 := by decide

theorem witness_StepAbove4094Faults :
    (placed 4095 []).pc.toNat > 4094 ∧ (placed 4095 []).pending = [] ∧
    (placed 4095 [.step 7]).pc.toNat > 4094 ∧ (placed 4095 [.step 7]).pending = [.step 7] := by decide

theorem witness_StepTakesTheNextEvent :
    (placed 0 [.tick]).pending = [.tick] ∧ (placed 0 [.setKey 15 true]).pending = [.setKey 15 true] ∧
    (placed 0 [.load []]).pending = [.load []] ∧ (placed 0 [.fbRead]).pending = [.fbRead] := by decide

/-- The state of the spec's program P6 (95_test_vectors.md) before its fourth step. -/
def storing : State := { regs [(0, 0x12), (1, 0x0A)] with i := 0x208, pc := 0x206 }

theorem witness_StoreIsSeenByTheNextFetch :
    storing.i.toNat + (1 : Reg).val ≤ 4095 ∧ (0 : Reg) ≤ 1 ∧ (1 : Reg) ≤ 1 ∧
    (1 : Reg).val = (0 : Reg).val + 1 ∧ storing.pc.toNat + 2 = storing.i.toNat + (0 : Reg).val := by decide

/-- A state with `n` occupied slots. -/
def stacked (n : Fin 17) : State := { State.reset with sp := n }

theorem witness_ReturnPopsAndAdvances :
    (stacked 16).sp.val = (15 : Fin 16).val + 1 ∧ (stacked 0).sp.val = 0 := by decide

theorem witness_CallPushesItsOwnAddress :
    (stacked 15).sp.val = (15 : Fin 16).val ∧ (stacked 16).sp.val = 16 := by decide

theorem witness_ReturnResumesAfterTheCall : (stacked 15).sp.val < 16 ∧
    ∃ t, exec (.call 0x300) (stacked 15) = .next t ∧ t.stack = t.stack ∧ t.sp = t.sp :=
  ⟨by decide, _, rfl, rfl, rfl⟩

theorem witness_AddWritesTheCarryThenTheSum :
    (14 : Reg) ≠ 15 ∧ (0 : Reg) ≠ 15 ∧ (15 : Reg) = 15 := by decide

theorem witness_SubtractWritesNoBorrowThenTheDifference :
    (14 : Reg) ≠ 15 ∧ (regs [(15, 1)]).v[(15 : Reg)].toNat > (regs [(15, 1)]).v[(14 : Reg)].toNat ∧
    (regs []).v[(15 : Reg)].toNat ≤ (regs []).v[(14 : Reg)].toNat ∧
    (regs [(14, 1)]).v[(14 : Reg)].toNat > (regs [(14, 1)]).v[(15 : Reg)].toNat ∧
    (regs []).v[(14 : Reg)].toNat ≤ (regs []).v[(15 : Reg)].toNat := by decide

theorem witness_RandomIsTheMaskedByteOfTheStep :
    ({ State.reset with rnd := some 0xA7 } : State).rnd = some 0xA7 ∧ State.reset.rnd = none := by decide

/-- A state with I at `w`. -/
def indexed (w : Word) : State := { State.reset with i := w }

theorem witness_BcdStoresThreeDigits :
    (indexed 4093).i.toNat ≤ 4093 ∧ (indexed 4094).i.toNat > 4093 := by decide

theorem witness_StoreRegistersFromI :
    (indexed 4080).i.toNat + (15 : Reg).val ≤ 4095 ∧ (0 : Reg) ≤ 15 ∧
    (indexed 4081).i.toNat + (15 : Reg).val > 4095 := by decide

theorem witness_LoadRegistersFromI :
    (indexed 4095).i.toNat + (0 : Reg).val ≤ 4095 ∧ (indexed 4095).i.toNat + (1 : Reg).val > 4095 := by
  decide

theorem witness_StoreThenLoadRestoresTheRegisters : (indexed 4080).i.toNat + (15 : Reg).val ≤ 4095 ∧
    ∃ t, exec (.storeRegs 15) (indexed 4080) = .next t ∧ t.mem = t.mem ∧ t.i = t.i :=
  ⟨by decide, _, rfl, rfl, rfl⟩

theorem witness_EqualReadsAreEqualMemories :
    Memory.wf [(0, 0x77), (4095, 1)] = true ∧
    ∀ a : Nat, Memory.read [(0, 0x77), (4095, 1)] a = Memory.read [(0, 0x77), (4095, 1)] a :=
  ⟨by decide, fun _ => rfl⟩

theorem witness_DrawFlipsExactlyTheCoveredCells :
    (0 : Fin 16).val = 0 ∧ (indexed 4081).i.toNat + (15 : Fin 16).val - 1 ≤ 4095 ∧
    (15 : Fin 16).val > 0 ∧ (indexed 4082).i.toNat + (15 : Fin 16).val - 1 > 4095 := by decide

theorem witness_covered_and_uncovered_cells :
    Covers State.reset 0 1 5 0 0 ∧ ¬Covers State.reset 0 1 0 0 0 :=
  ⟨⟨0, 0, by decide⟩, fun ⟨_, _, h, _⟩ => absurd h (Nat.not_lt_zero _)⟩

theorem witness_DrawingTwiceRestoresTheFramebuffer :
    (0 : Reg) ≠ 15 ∧ (14 : Reg) ≠ 15 ∧ (indexed 4081).i.toNat + (15 : Fin 16).val - 1 ≤ 4095 := by decide

theorem witness_KeySkipsTestTheKeyNamed :
    (regs [(0, 15)]).v[(0 : Reg)].toNat = (15 : Fin 16).val ∧ (regs [(0, 16)]).v[(0 : Reg)].toNat > 15 := by
  decide

theorem witness_KeyWaitStoresTheLeastPressedKey :
    (∀ j : Fin 16, State.reset.keys[j] = false) ∧
    ((State.reset.setKey 15 true).keys[(15 : Fin 16)] = true ∧
      ∀ k : Fin 16, k < 15 → (State.reset.setKey 15 true).keys[k] = false) := by decide

theorem witness_UnknownOpcodeOnlyAdvances : State.reset.fetch = .next 0x0000 ∧
    ∀ q ∈ opcodeMap, (0x0000 : Word) &&& q.mask ≠ q.mtch :=
  ⟨rfl, by decide⟩

theorem witness_FaultsAreExactlyTheListedOnes :
    faultOf .ret State.reset = some (.stackUnderflow 0x200) ∧
    faultOf (.call 0) (stacked 16) = some (.stackOverflow 0x200) ∧
    faultOf (.drw 0 0 15) (indexed 4082) = some (.memoryOutOfRange 4082) ∧
    faultOf (.ldBcd 0) (indexed 4094) = some (.memoryOutOfRange 4094) ∧
    faultOf (.storeRegs 15) (indexed 4081) = some (.memoryOutOfRange 4081) ∧
    faultOf (.loadRegs 1) (indexed 4095) = some (.memoryOutOfRange 4095) ∧
    faultOf (.skp 0) (regs [(0, 16)]) = some (.keyIndexOutOfRange 16) ∧
    faultOf (.sknp 0) (regs [(0, 16)]) = some (.keyIndexOutOfRange 16) ∧
    faultOf (.drw 0 0 15) (indexed 4081) = none ∧ (placed 4095 []).pc.toNat > 4094 ∧
    (placed 4094 []).pc.toNat ≤ 4094 := by decide

theorem witness_rom_lengths : (List.replicate 3585 (0 : Byte)).length + 0x200 > 4096 ∧
    (List.replicate 3584 (0 : Byte)).length + 0x200 ≤ 4096 := by
  simp only [List.length_replicate]; decide

theorem witness_AFaultIsRaisedAgainUntilALoad :
    applyEvent (.step 0) (placed 4095 []) = .fault (.pcOutOfRange 4095) ∧
    (∀ e ∈ [Event.tick, .setKey 3 true, .step 9],
      e = .tick ∨ (∃ k p, e = .setKey k p) ∨ ∃ b, e = .step b) ∧ ([] : List Byte).length ≤ 3584 :=
  ⟨rfl, by simp, by decide⟩

theorem witness_OutputsSayWhatRan : State.reset.fetch = .next 0x0000 ∧
    ∃ t, applyEvent (.step 0) State.reset = .next t :=
  ⟨rfl, _, rfl⟩

/-- For the statements whose hypothesis is that an instruction completes. -/
theorem witness_exec_completes : ∃ t, exec (.addReg 1 2) (regs [(1, 3)]) = .next t ∧
    mayWrite (.addReg 1 2) 3 = false :=
  ⟨_, rfl, rfl⟩

theorem witness_RegistersOutsideTheDestinationAreKept :
    ∃ t, exec (.ldImm 15 7) State.reset = .next t ∧ t.v[VF] ≠ State.reset.v[VF] :=
  ⟨_, rfl, by decide⟩

theorem witness_OnlyIndexInstructionsChangeI : ∃ t, exec (.ldI 5) State.reset = .next t := ⟨_, rfl⟩

theorem witness_OnlyCallAndReturnTouchTheStack :
    (∃ t, exec (.call 0x300) (stacked 15) = .next t) ∧ ∃ t, exec .ret (stacked 16) = .next t :=
  ⟨⟨_, rfl⟩, _, rfl⟩

theorem witness_OnlyStoresChangeMemory :
    (∃ t, exec (.ldBcd 0) (indexed 4093) = .next t) ∧ ∃ t, exec (.storeRegs 15) (indexed 4080) = .next t :=
  ⟨⟨_, rfl⟩, _, rfl⟩

theorem witness_InstructionsLeaveKeysAndTimers : ∃ t, exec (.ldToDt 0) State.reset = .next t := ⟨_, rfl⟩

theorem witness_PcMovesAsTheTableSays :
    (∃ t, exec (.jp 0xFFF) State.reset = .next t) ∧ (∃ t, exec .ret (stacked 1) = .next t) ∧
    (∃ t, exec (.skp 0) (regs [(0, 15)]) = .next t) ∧ ∃ t, exec (.ldKey 0) State.reset = .next t :=
  ⟨⟨_, rfl⟩, ⟨_, rfl⟩, ⟨_, rfl⟩, _, rfl⟩

theorem witness_OnlyRandomReadsTheOfferedByte :
    (∀ x nn, Instr.ldBcd 0 ≠ .rnd x nn) ∧ (∃ t, exec (.ldBcd 0) (indexed 4093) = .next t) ∧
    exec (.ldBcd 0) (indexed 4094) = .fault (.memoryOutOfRange 4094) :=
  ⟨nofun, ⟨_, rfl⟩, rfl⟩

theorem witness_FramebufferIsReadInOrderAndChangesOnlyWithDraw :
    ∃ t, applyEvent (.step 0) State.reset = .next t ∧ (∀ rom, Event.step 0 ≠ .load rom) ∧
      ∀ r, Event.step 0 = .step r → t.draw = false :=
  ⟨_, rfl, nofun, fun _ _ => rfl⟩

theorem witness_LoadCreatesTheStateAnew : ([0x12, 0x0C] : List Byte).length ≤ 3584 := by decide

theorem witness_OversizeRomIsRefused : (List.replicate 3585 (0 : Byte)).length > 3584 ∧
    (List.replicate 3584 (0 : Byte)).length = 3584 := by
  simp only [List.length_replicate]; decide

theorem witness_ResetIsTheLoadOfTheEmptyImage :
    (regs [(1, 3)]).pending = [] ∧ (regs [(1, 3)]).draws = 0 := by decide

theorem witness_EveryStepKeepsTheInvariant : State.reset.Inv ∧ ∃ t, step State.reset = .next t :=
  ⟨⟨rfl, rfl, by decide, fun j h => absurd h (Nat.not_lt_zero _)⟩, _, rfl⟩

theorem witness_ReachableStatesMeetTheInvariant : ∃ t, Reachable t ∧ Reachable (t.after .tick) :=
  ⟨_, .load defaultFont [] State.reset _ rfl, .event _ _ (.load defaultFont [] State.reset _ rfl)⟩

theorem witness_SelfJumpIsAFixedPoint :
    (bytes State.reset 0x200 [0x12, 0x00]).fetch = .next (encode (.jp 0x200)) ∧
    (bytes State.reset 0x200 [0x12, 0x00]).pc.toNat = (0x200 : Imm12).toNat ∧
    ∀ e ∈ [Event.step 1, .tick], e = .tick ∨ (∃ k p, e = .setKey k p) ∨ ∃ b, e = .step b :=
  ⟨rfl, by decide, by simp⟩

/-- The state of the spec's program P4 (95_test_vectors.md) before its second step. -/
def timing : State := bytes { regs [(0, 3)] with pc := 0x202 } 0x202 [0xF0, 0x15, 0xF1, 0x07]

theorem witness_ReferenceFrameReadsTheScreenExactlyAfterDraw :
    (∃ u, stepResult 9 (bytes State.reset 0x200 [0x00, 0xE0]) = some (.ok true u)) ∧
    ∀ u, stepResult 9 timing ≠ some (.ok true u) :=
  ⟨⟨false, rfl⟩, nofun⟩

-- frames 2 and 3 of P4: Fx07 reads 3 - 1 = 2
theorem witness_ReferenceScheduleCountsOneTickAFrame :
    timing.fetch = .next 0xF015 ∧ decode 0xF015 = .ldToDt 0 ∧
    NoDelaySet [] (runFrame ⟨[], 9⟩ timing) ∧
    (runFrames [⟨[], 9⟩] timing).fetch = .next 0xF107 ∧ decode 0xF107 = .ldFromDt 1 ∧
    (runFrame ⟨[], 9⟩ (runFrames [⟨[], 9⟩] timing)).v[(1 : Reg)] = 2 :=
  ⟨rfl, by decide, trivial, rfl, by decide, by decide⟩

-- frame 4 of P4 runs between: it executes no Fx15
theorem witness_NoDelaySet : NoDelaySet [⟨[(7, true)], 9⟩] { timing with pc := 0x204 } :=
  ⟨fun w x h => by
    have : w = 0xF107 := by injection h with h; exact h.symm
    subst this; exact nofun, trivial⟩

end Sys2Proof.Tests
end

section
/-! SUPPORT. What one event does and how a step takes the next one (spec 00_scope.md R5, R109). -/

namespace Sys2Proof.Machine

variable (s : State)

/-! ### The events other than STEP, one equation each -/

@[simp] theorem applyEvent_tick : applyEvent .tick s = .next s.tick := rfl
@[simp] theorem applyEvent_setKey (k : Fin 16) (p : Bool) :
    applyEvent (.setKey k p) s = .next (s.setKey k p) := rfl
@[simp] theorem applyEvent_load (rom : List Byte) :
    applyEvent (.load rom) s = s.loadWith defaultFont rom := rfl
@[simp] theorem applyEvent_fbRead : applyEvent .fbRead s = .next s := rfl

/-! ### The step -/

/-- The event leaves the list before it takes effect, so it lands on a state that no longer holds it
(log 2). -/
theorem step_of_pending_cons {e : Event} {rest : List Event} (h : s.pending = e :: rest) :
    step s = applyEvent e { s with pending := rest } := by
  simp only [step, h]

end Sys2Proof.Machine

open Sys2Proof Sys2Proof.Machine

/-- Settles O10: the step is the event at the head of the list, and each event but STEP has its own
equation. -/
theorem stepTakesTheNextEvent : Obligations.StepTakesTheNextEvent := by
  intro s rest
  refine ⟨fun h => ?tick, fun k p h => ?setKey, fun rom h => ?load, fun h => ?fbRead⟩
  case tick => rw [step_of_pending_cons s h, applyEvent_tick]
  case setKey => rw [step_of_pending_cons s h, applyEvent_setKey]
  case load => rw [step_of_pending_cons s h, applyEvent_load]
  case fbRead => rw [step_of_pending_cons s h, applyEvent_fbRead]

end

section
/-! SUPPORT. What an instruction can do when it completes (spec 40_step_and_control_flow.md R60): the
frame statements of 10_state.md are read off it case by case. -/

namespace Sys2Proof.Machine

variable {s t : State}

/-! ### The shared operations, read backwards -/

theorem State.checkTop_eq_next {last : Nat} {r : Result}
    (h : s.checkTop last r = .next t) : s.i.toNat + last ≤ 4095 ∧ r = .next t := by
  by_cases hle : s.i.toNat + last ≤ 4095
  · exact ⟨hle, by rwa [s.checkTop_ok r hle] at h⟩
  · rw [s.checkTop_fault r (by omega)] at h
    cases h

theorem State.keySkip_eq_next {x : Reg} {level : Bool}
    (h : s.keySkip x level = .next t) :
    ∃ k : Fin 16, (s.reg x).toNat = k.val ∧ t = s.advanceSkip (s.key k == level) := by
  unfold State.keySkip at h
  split at h
  · cases h
  · cases h
    exact ⟨_, rfl, rfl⟩

/-! ### `drawSprite` -/

section
variable (s : State) (x y : Reg) (n : Nat)

@[simp] theorem State.drawSprite_pc : (s.drawSprite x y n).pc = s.pc + 2 := rfl
@[simp] theorem State.drawSprite_i : (s.drawSprite x y n).i = s.i := rfl
@[simp] theorem State.drawSprite_stack : (s.drawSprite x y n).stack = s.stack := rfl
@[simp] theorem State.drawSprite_sp : (s.drawSprite x y n).sp = s.sp := rfl
@[simp] theorem State.drawSprite_dt : (s.drawSprite x y n).dt = s.dt := rfl
@[simp] theorem State.drawSprite_st : (s.drawSprite x y n).st = s.st := rfl
@[simp] theorem State.drawSprite_keys : (s.drawSprite x y n).keys = s.keys := rfl
@[simp] theorem State.drawSprite_mem : (s.drawSprite x y n).mem = s.mem := rfl
@[simp] theorem State.drawSprite_rnd : (s.drawSprite x y n).rnd = s.rnd := rfl
@[simp] theorem State.drawSprite_draws : (s.drawSprite x y n).draws = s.draws := rfl
@[simp] theorem State.drawSprite_draw : (s.drawSprite x y n).draw = true := rfl
@[simp] theorem State.drawSprite_unknown : (s.drawSprite x y n).unknown = s.unknown := rfl
@[simp] theorem State.drawSprite_pending : (s.drawSprite x y n).pending = s.pending := rfl

theorem State.drawSprite_v_other (r : Reg) (h : r ≠ VF) :
    (s.drawSprite x y n).v[r] = s.v[r] :=
  s.reg_setV_other VF r _ h

end

/-! ### Completion -/

/-- `Completes s i t`: in `s` the instruction `i` meets its guard (R36, R62, R64, R92, R93) and ends in
`t`. -/
inductive Completes (s : State) : Instr → State → Prop where
  | cls : Completes s .cls (s.setFb Framebuffer.clear).reportDraw.advance
  | ret (h : s.sp.val ≠ 0) : Completes s .ret s.pop.advance
  | jp (a : Imm12) : Completes s (.jp a) (s.setPc (address a))
  | call (a : Imm12) (h : s.sp.val ≠ 16) :
      Completes s (.call a) ((s.push s.pc h).setPc (address a))
  | seImm (x : Reg) (nn : Byte) : Completes s (.seImm x nn) (s.advanceSkip (s.reg x == nn))
  | sneImm (x : Reg) (nn : Byte) : Completes s (.sneImm x nn) (s.advanceSkip (s.reg x != nn))
  | seReg (x y : Reg) : Completes s (.seReg x y) (s.advanceSkip (s.reg x == s.reg y))
  | sneReg (x y : Reg) : Completes s (.sneReg x y) (s.advanceSkip (s.reg x != s.reg y))
  | ldImm (x : Reg) (nn : Byte) : Completes s (.ldImm x nn) (s.setV x nn).advance
  | addImm (x : Reg) (nn : Byte) : Completes s (.addImm x nn) (s.setV x (s.reg x + nn)).advance
  | ldReg (x y : Reg) : Completes s (.ldReg x y) (s.setV x (s.reg y)).advance
  | orReg (x y : Reg) : Completes s (.orReg x y) (s.setV x (s.reg x ||| s.reg y)).advance
  | andReg (x y : Reg) : Completes s (.andReg x y) (s.setV x (s.reg x &&& s.reg y)).advance
  | xorReg (x y : Reg) : Completes s (.xorReg x y) (s.setV x (s.reg x ^^^ s.reg y)).advance
  | addReg (x y : Reg) : Completes s (.addReg x y)
      (let s1 := s.setV VF (carryFlag (s.reg x) (s.reg y))
       (s1.setV x (s1.reg x + s1.reg y)).advance)
  | subReg (x y : Reg) : Completes s (.subReg x y)
      (let s1 := s.setV VF (noBorrowFlag (s.reg x) (s.reg y))
       (s1.setV x (s1.reg x - s1.reg y)).advance)
  | rnd (x : Reg) (nn : Byte) :
      Completes s (.rnd x nn) (s.consumeRnd.setV x (nn &&& s.rndByte)).advance
  | ldI (a : Imm12) : Completes s (.ldI a) (s.setI (address a)).advance
  | addI (x : Reg) : Completes s (.addI x) (s.setI (s.i + wide (s.reg x))).advance
  | ldFont (x : Reg) : Completes s (.ldFont x) (s.setI (glyphAddress (s.reg x))).advance
  | drw (x y : Reg) (n : Fin 16) (h : n.val = 0 ∨ s.i.toNat + n.val - 1 ≤ 4095) :
      Completes s (.drw x y n) (s.drawSprite x y n.val)
  | skp (x : Reg) (k : Fin 16) (h : (s.reg x).toNat = k.val) :
      Completes s (.skp x) (s.advanceSkip (s.key k == true))
  | sknp (x : Reg) (k : Fin 16) (h : (s.reg x).toNat = k.val) :
      Completes s (.sknp x) (s.advanceSkip (s.key k == false))
  | ldFromDt (x : Reg) : Completes s (.ldFromDt x) (s.setV x s.dt).advance
  | ldKeyWaits (x : Reg) (h : s.leastKey = none) : Completes s (.ldKey x) s
  | ldKeyStores (x : Reg) (j : Fin 16) (h : s.leastKey = some j) :
      Completes s (.ldKey x) (s.setV x (BitVec.ofNat 8 j.val)).advance
  | ldToDt (x : Reg) : Completes s (.ldToDt x) (s.setDt (s.reg x)).advance
  | ldBcd (x : Reg) (h : s.i.toNat + 2 ≤ 4095) : Completes s (.ldBcd x)
      (s.setMem (s.mem.writeBytes s.i.toNat (decimalDigits (s.reg x)))).advance
  | storeRegs (x : Reg) (h : s.i.toNat + x.val ≤ 4095) : Completes s (.storeRegs x)
      (s.setMem (s.mem.writeBytes s.i.toNat (s.regsUpTo x))).advance
  | loadRegs (x : Reg) (h : s.i.toNat + x.val ≤ 4095) :
      Completes s (.loadRegs x) (s.setRegs (s.loadUpTo x)).advance
  | unknown (w : Word) : Completes s (.unknown w) s.reportUnknown.advance

theorem completes_of_execRet (h : execRet s = .next t) : Completes s .ret t := by
  unfold execRet at h
  split at h
  · cases h
  · next hsp => cases h; exact .ret hsp

theorem completes_of_execCall {a : Imm12} (h : execCall a s = .next t) : Completes s (.call a) t := by
  unfold execCall at h
  split at h
  · cases h
  · next hsp => cases h; exact .call a hsp

theorem completes_of_execDrw {x y : Reg} {n : Fin 16} (h : execDrw x y n s = .next t) :
    Completes s (.drw x y n) t := by
  unfold execDrw at h
  split at h
  · next hn => cases h; rw [← hn]; exact .drw x y n (.inl hn)
  · next hn =>
    obtain ⟨htop, h⟩ := State.checkTop_eq_next h
    cases h
    exact .drw x y n (.inr (by omega))

theorem completes_of_execLdKey {x : Reg} (h : execLdKey x s = .next t) : Completes s (.ldKey x) t := by
  unfold execLdKey at h
  split at h
  · next hk => cases h; exact .ldKeyWaits x hk
  · next j hj => cases h; exact .ldKeyStores x j hj

/-- The instructions with no guard complete in one way from every state; the others by the lemma of
their guard. -/
theorem completes_of_exec {i : Instr} (h : exec i s = .next t) : Completes s i t := by
  cases i with
  | ret => exact completes_of_execRet h
  | call a => exact completes_of_execCall h
  | drw x y n => exact completes_of_execDrw h
  | skp x => obtain ⟨k, hk, rfl⟩ := State.keySkip_eq_next h; exact .skp x k hk
  | sknp x => obtain ⟨k, hk, rfl⟩ := State.keySkip_eq_next h; exact .sknp x k hk
  | ldKey x => exact completes_of_execLdKey h
  | ldBcd x => obtain ⟨htop, h⟩ := State.checkTop_eq_next h; cases h; exact .ldBcd x htop
  | storeRegs x => obtain ⟨htop, h⟩ := State.checkTop_eq_next h; cases h; exact .storeRegs x htop
  | loadRegs x => obtain ⟨htop, h⟩ := State.checkTop_eq_next h; cases h; exact .loadRegs x htop
  | _ => cases h; constructor

end Sys2Proof.Machine
end

section
/-! SUPPORT. Who writes what (spec 10_state.md R10 to R20), from the ways an instruction completes. -/

namespace Sys2Proof.Machine

variable {s t : State} {i : Instr}

/-! ### Registers (R10, R12) -/

theorem State.setV_v_other (s : State) {x r : Reg} (b : Byte) (h : (r == x) = false) :
    (s.setV x b).v[r] = s.v[r] :=
  s.reg_setV_other x r b (ne_of_beq_false h)

/-- A flag write and then a result write keep the registers that are neither. -/
theorem State.setV_VF_setV_v_other (s : State) {x r : Reg} (f b : Byte)
    (h : (r == x || r == VF) = false) : ((s.setV VF f).setV x b).v[r] = s.v[r] := by
  obtain ⟨hx, hVF⟩ := Bool.or_eq_false_iff.mp h
  rw [State.setV_v_other _ b hx, State.setV_v_other _ f hVF]

theorem Completes.v_of_not_mayWrite (h : Completes s i t) {r : Reg} (hr : mayWrite i r = false) :
    t.v[r] = s.v[r] := by
  cases h with
  | addReg | subReg => exact s.setV_VF_setV_v_other _ _ hr
  | drw x y n => exact s.drawSprite_v_other x y n.val r (ne_of_beq_false hr)
  | loadRegs x =>
    have hxr : ¬r ≤ x := of_decide_eq_false hr
    exact (s.loadUpTo_get x r).trans (if_neg hxr)
  | ldImm | addImm | ldReg | orReg | andReg | xorReg | ldFromDt | ldKeyStores =>
    exact s.setV_v_other _ hr
  | rnd x nn => exact s.consumeRnd.setV_v_other _ hr
  | _ => simp

/-- The list of R12. -/
theorem mayWrite_VF (h : mayWrite i VF = true) :
    (∃ x y, i = .addReg x y) ∨ (∃ x y, i = .subReg x y) ∨ (∃ x y n, i = .drw x y n) ∨
    (∃ nn, i = .ldImm 15 nn) ∨ (∃ nn, i = .addImm 15 nn) ∨ (∃ y, i = .ldReg 15 y) ∨
    (∃ y, i = .orReg 15 y) ∨ (∃ y, i = .andReg 15 y) ∨ (∃ y, i = .xorReg 15 y) ∨
    (∃ nn, i = .rnd 15 nn) ∨ i = .ldFromDt 15 ∨ i = .ldKey 15 ∨ i = .loadRegs 15 := by
  cases i with
  | loadRegs x =>
    have hx : VF ≤ x := of_decide_eq_true h
    have : x = 15 := Fin.le_antisymm (Fin.le_last x) hx
    simp [this]
  | ldImm x | addImm x | ldReg x | orReg x | andReg x | xorReg x | rnd x | ldFromDt x | ldKey x =>
    obtain rfl : VF = x := eq_of_beq h
    simp
  | addReg | subReg | drw => simp
  | _ => cases h

/-! ### I (R16) -/

theorem Completes.i_eq (h : Completes s i t) :
    t.i = s.i ∨ (∃ a, i = .ldI a) ∨ (∃ x, i = .addI x) ∨ ∃ x, i = .ldFont x := by
  cases h with
  | ldI a => exact .inr (.inl ⟨a, rfl⟩)
  | addI x => exact .inr (.inr (.inl ⟨x, rfl⟩))
  | ldFont x => exact .inr (.inr (.inr ⟨x, rfl⟩))
  | _ => left; simp

/-! ### The stack (R17) -/

theorem State.push_slot (s : State) (w : Word) (h : s.sp.val ≠ 16) (j : Fin 16) :
    (s.push w h).stack[j] = if j.val = s.sp.val then w else s.stack[j] := by
  simp [Vector.getElem_set, eq_comm]

theorem Completes.stack_cases (h : Completes s i t) :
    (t.sp = s.sp ∧ t.stack = s.stack) ∨
    ((∃ a, i = .call a) ∧ t.sp.val = s.sp.val + 1 ∧
      ∀ j : Fin 16, t.stack[j] = if j.val = s.sp.val then s.pc else s.stack[j]) ∨
    (i = .ret ∧ t.sp.val + 1 = s.sp.val ∧ t.stack = s.stack) := by
  cases h with
  | call a h => exact .inr (.inl ⟨⟨a, rfl⟩, rfl, s.push_slot s.pc h⟩)
  | ret h => exact .inr (.inr ⟨rfl, Nat.sub_add_cancel (Nat.pos_of_ne_zero h), rfl⟩)
  | _ => left; simp

/-! ### Keys, timers and the host's side (R19, R20, R97) -/

theorem Completes.keys_timers_host (h : Completes s i t) :
    t.keys = s.keys ∧ t.st = s.st ∧ (t.dt = s.dt ∨ ∃ x, i = .ldToDt x) ∧
    t.rnd = s.rnd ∧ t.pending = s.pending ∧ (t.draws = s.draws ∨ ∃ x nn, i = .rnd x nn) := by
  cases h with
  | ldToDt x => exact ⟨rfl, rfl, .inr ⟨x, rfl⟩, rfl, rfl, .inl rfl⟩
  | rnd x nn => exact ⟨rfl, rfl, .inl rfl, rfl, rfl, .inr ⟨x, nn, rfl⟩⟩
  | _ => simp

/-! ### pc (R14) -/

@[simp] theorem address_toNat (a : Imm12) : (address a).toNat = a.toNat := by
  rw [address, BitVec.toNat_setWidth]
  omega

theorem State.pop_advance_pc (s : State) (h : s.sp.val ≠ 0) :
    ∃ n : Fin 16, s.sp.val = n.val + 1 ∧ s.pop.advance.pc = s.stack[n] + 2 :=
  ⟨⟨s.sp.val - 1, by omega⟩, (Nat.sub_add_cancel (Nat.pos_of_ne_zero h)).symm, rfl⟩

end Sys2Proof.Machine

open Sys2Proof Sys2Proof.Machine

/-- Settles O40: the first half from the ways of completing; the second is the first at VF, with the
registers that may be written there listed. -/
theorem registersOutsideTheDestinationAreKept :
    Obligations.RegistersOutsideTheDestinationAreKept := by
  refine ⟨fun i s t r h hr => (completes_of_exec h).v_of_not_mayWrite hr, fun i s t h hne => ?_⟩
  have hVF : mayWrite i VF ≠ false := fun hr => hne ((completes_of_exec h).v_of_not_mayWrite hr)
  exact mayWrite_VF (eq_true_of_ne_false hVF)

/-- Settles O41, from the ways of completing. -/
theorem onlyIndexInstructionsChangeI : Obligations.OnlyIndexInstructionsChangeI :=
  fun _ _ _ h => (completes_of_exec h).i_eq

/-- Settles O42, from the ways of completing. -/
theorem onlyCallAndReturnTouchTheStack : Obligations.OnlyCallAndReturnTouchTheStack :=
  fun _ _ _ h => (completes_of_exec h).stack_cases

/-- Settles O44, from the ways of completing. -/
theorem instructionsLeaveKeysAndTimers : Obligations.InstructionsLeaveKeysAndTimers :=
  fun _ _ _ h => (completes_of_exec h).keys_timers_host

/-- Settles O45, one row of the table of R14 for each way of completing. -/
theorem pcMovesAsTheTableSays : Obligations.PcMovesAsTheTableSays := by
  intro i s t h
  cases completes_of_exec h with
  | ret hsp => exact s.pop_advance_pc hsp
  | jp a => exact address_toNat a
  | call a => exact address_toNat a
  | seImm | seReg => simp [State.reg]
  | sneImm | sneReg => simp [State.reg]
  | skp x k hk => exact ⟨k, hk, by simp [State.key]⟩
  | sknp x k hk =>
    refine ⟨k, hk, ?_⟩
    cases hkey : s.keys[k] <;> simp [State.key, hkey]
  | ldKeyWaits x hk =>
    have hnone := s.leastKey_none.mp hk
    simp [hnone]
  | ldKeyStores x j hj =>
    have hpressed : ∃ j : Fin 16, s.keys[j] = true := ⟨j, ((s.leastKey_some j).mp hj).1⟩
    simp only [State.advance_pc, State.setV_pc, if_pos hpressed]
  | _ => simp

end

section
/-! SUPPORT. Canonical memories with the same reads are equal (spec 20_memory.md R22, R38; log 15). -/

namespace Sys2Proof.Machine

theorem Memory.wfFrom_cons {lo a : Nat} {b : Byte} {m : Memory} :
    Memory.wfFrom lo ((a, b) :: m) = true ↔
      lo ≤ a ∧ a < Config.memSize ∧ b ≠ Memory.unlisted a ∧ m.wfFrom (a + 1) = true := by
  simp [Memory.wfFrom, and_assoc]

@[simp] theorem Memory.read_cons_same (m : Memory) (a : Nat) (b : Byte) :
    Memory.read ((a, b) :: m) a = b := by
  simp [Memory.read]

theorem Memory.read_cons_other (m : Memory) {a a' : Nat} (b : Byte) (h : a' ≠ a) :
    Memory.read ((a, b) :: m) a' = m.read a' := by
  simp [Memory.read, h]

/-- Below its first possible address a canonical memory lists nothing. -/
theorem Memory.read_below {lo a : Nat} {m : Memory} (hw : m.wfFrom lo = true) (h : a < lo) :
    m.read a = Memory.unlisted a := by
  induction m generalizing lo with
  | nil => rfl
  | cons c m ih =>
    obtain ⟨k, v⟩ := c
    obtain ⟨hlo, -, -, hm⟩ := Memory.wfFrom_cons.mp hw
    rw [Memory.read_cons_other m v (by omega), ih hm (by omega)]

/-- The first entry of a canonical memory shows: no canonical memory that starts later reads alike. -/
theorem Memory.read_cons_ne {lo lo' k : Nat} {v : Byte} {m m' : Memory}
    (hw : Memory.wfFrom lo ((k, v) :: m) = true) (hw' : m'.wfFrom lo' = true) (h : k < lo') :
    Memory.read ((k, v) :: m) k ≠ m'.read k := by
  obtain ⟨-, -, hv, -⟩ := Memory.wfFrom_cons.mp hw
  rw [Memory.read_cons_same, Memory.read_below hw' h]
  exact hv

theorem Memory.ext_of_wfFrom {lo : Nat} {m m' : Memory} (hw : m.wfFrom lo = true)
    (hw' : m'.wfFrom lo = true) (h : ∀ a, Memory.read m a = Memory.read m' a) : m = m' := by
  induction m generalizing lo m' with
  | nil =>
    cases m' with
    | nil => rfl
    | cons c' m' =>
      have hnil : Memory.wfFrom (c'.1 + 1) [] = true := rfl
      exact absurd (h c'.1).symm (Memory.read_cons_ne hw' hnil (by omega))
  | cons c m ih =>
    obtain ⟨k, v⟩ := c
    cases m' with
    | nil =>
      have hnil : Memory.wfFrom (k + 1) [] = true := rfl
      exact absurd (h k) (Memory.read_cons_ne hw hnil (by omega))
    | cons c' m' =>
      obtain ⟨k', v'⟩ := c'
      obtain ⟨-, hk, hv, hm⟩ := Memory.wfFrom_cons.mp hw
      obtain ⟨-, hk', hv', hm'⟩ := Memory.wfFrom_cons.mp hw'
      rcases Nat.lt_trichotomy k k' with hlt | rfl | hgt
      · have : Memory.wfFrom k' ((k', v') :: m') = true :=
          Memory.wfFrom_cons.mpr ⟨Nat.le_refl k', hk', hv', hm'⟩
        exact absurd (h k) (Memory.read_cons_ne hw this hlt)
      · have hvv : v = v' := by simpa using h k
        have htail : ∀ a, Memory.read m a = Memory.read m' a := by
          intro a
          by_cases ha : a = k
          · rw [ha, Memory.read_below hm (by omega), Memory.read_below hm' (by omega)]
          · simpa [Memory.read_cons_other _ _ ha] using h a
        rw [hvv, ih hm hm' htail]
      · have : Memory.wfFrom k ((k, v) :: m) = true :=
          Memory.wfFrom_cons.mpr ⟨Nat.le_refl k, hk, hv, hm⟩
        exact absurd (h k').symm (Memory.read_cons_ne hw' this hgt)

end Sys2Proof.Machine

open Sys2Proof Sys2Proof.Machine

/-- Settles O28: canonical memories with the same reads have the same first entry, and so on down. -/
theorem equalReadsAreEqualMemories : Obligations.EqualReadsAreEqualMemories :=
  fun _ _ hw hw' h => Memory.ext_of_wfFrom hw hw' h

end

section
/-! SUPPORT. What LOAD leaves (spec 70_reset_and_hazards.md R121) and the state after reset (spec
10_state.md R23 to R25). -/

namespace Sys2Proof.Machine

theorem State.loadWith_ok (s : State) (font : Vector Byte 80) {rom : List Byte}
    (h : rom.length ≤ 3584) : s.loadWith font rom =
      .next { State.reset with
        mem := imageMemory font rom, draws := s.draws, pending := s.pending } :=
  if_neg (Nat.not_lt.mpr h)

/-! ### Reads of the loaded memory (R25) -/

theorem Memory.unlisted_above {a : Nat} (h : 80 ≤ a) : Memory.unlisted a = 0 :=
  List.getD_eq_default _ _ h

theorem imageMemory_read_low (font : Vector Byte 80) (rom : List Byte) {a : Nat} (h : a < 0x200) :
    (imageMemory font rom).read a = Memory.read (Memory.ofBytes 0 font.toList) a := by
  refine Memory.read_append_right _ _ a fun c hc => ?_
  have hc : 0x200 ≤ c.1 := (Memory.ofBytes_keys rom Config.progBase c hc).1
  omega

theorem imageMemory_read_high (font : Vector Byte 80) (rom : List Byte) {a : Nat} (h : 80 ≤ a) :
    (imageMemory font rom).read a = Memory.read (Memory.ofBytes Config.progBase rom) a := by
  refine Memory.read_append_left _ _ a fun c hc => ?_
  have hc := (Memory.ofBytes_keys font.toList 0 c hc).2
  rw [Vector.length_toList] at hc
  omega

theorem imageMemory_read_font (font : Vector Byte 80) (rom : List Byte) (a : Nat) (h : a < 80) :
    (imageMemory font rom).read a = font[a] := by
  rw [imageMemory_read_low font rom (by omega), Memory.read_ofBytes, dif_pos (by simpa using h)]
  simp

theorem imageMemory_read_rom (font : Vector Byte 80) (rom : List Byte) (k : Nat)
    (h : k < rom.length) : (imageMemory font rom).read (0x200 + k) = rom[k] := by
  rw [imageMemory_read_high font rom (by omega), Memory.read_ofBytes,
    dif_pos (by simp only [Config.progBase]; omega)]
  simp [Config.progBase]

theorem imageMemory_read_zero (font : Vector Byte 80) (rom : List Byte) (a : Nat) (h80 : 80 ≤ a)
    (h : a < 0x200 ∨ 0x200 + rom.length ≤ a) : (imageMemory font rom).read a = 0 := by
  rw [imageMemory_read_high font rom h80, Memory.read_ofBytes,
    dif_neg (by simp only [Config.progBase]; omega), Memory.unlisted_above h80]

/-- With the default font and no image every byte reads as unlisted. -/
theorem imageMemory_default_nil : imageMemory defaultFont [] = [] := by decide

/-! ### Reset (R23, R24) -/

section
variable (r : Fin 16)

@[simp] theorem State.reset_v : State.reset.v[r] = 0 := Vector.getElem_replicate ..
@[simp] theorem State.reset_stack : State.reset.stack[r] = 0 := Vector.getElem_replicate ..
@[simp] theorem State.reset_keys : State.reset.keys[r] = false := Vector.getElem_replicate ..

end

theorem State.reset_inv : State.reset.Inv where
  mem := rfl
  soundTimer := rfl
  pc := by decide
  slots j h := absurd h (Nat.not_lt_zero j.val)

/-! ### A STEP out of range of a fetch (R35) -/

theorem stepWith_above (s : State) (r : Option Byte) (h : s.pc.toNat > 4094) :
    stepWith r s = .fault (.pcOutOfRange s.pc) := by
  rcases stepWith_cases s r with ⟨hle, -⟩ | ⟨-, hstep⟩
  · omega
  · exact hstep

theorem step_of_pending_nil {s : State} (h : s.pending = []) : step s = stepWith none s := by
  simp only [step, h]

end Sys2Proof.Machine

open Sys2Proof Sys2Proof.Machine

/-- Settles O50: every field but memory is that of reset, and memory is read part by part. -/
theorem loadCreatesTheStateAnew : Obligations.LoadCreatesTheStateAnew := by
  intro s font rom h
  refine ⟨_, s.loadWith_ok font h, rfl, rfl, rfl, rfl, rfl, State.reset_v, State.reset_stack,
    State.reset_keys, Framebuffer.cell_clear, imageMemory_wf font rom h, ?font, ?rom, ?zero⟩
  case font => exact imageMemory_read_font font rom
  case rom => exact imageMemory_read_rom font rom
  case zero => exact imageMemory_read_zero font rom

/-- Settles O52: the image adds nothing, and the host's side of the state is as at reset. -/
theorem resetIsTheLoadOfTheEmptyImage : Obligations.ResetIsTheLoadOfTheEmptyImage := by
  refine ⟨rfl, rfl, fun s hpending hdraws => ?_⟩
  have hlength : ([] : List Byte).length ≤ 3584 := Nat.zero_le 3584
  rw [applyEvent_load, s.loadWith_ok defaultFont hlength, imageMemory_default_nil, hpending, hdraws]
  rfl

/-- Settles O53. -/
theorem resetMeetsTheInvariant : Obligations.ResetMeetsTheInvariant := State.reset_inv

/-- Settles O9: in both forms of the step the fetch faults, before the byte offered matters. -/
theorem stepAbove4094Faults : Obligations.StepAbove4094Faults := by
  intro s hpc
  refine ⟨fun h => ?free, fun r rest h => ?offered⟩
  case free => rw [step_of_pending_nil h, stepWith_above s none hpc]
  case offered =>
    rw [step_of_pending_cons s h]
    exact stepWith_above { s with pending := rest } (some r) hpc

end

section
/-! SUPPORT. What a STEP runs, what a store leaves in memory, and the word placed before a step (spec
20_memory.md R30 to R42, 40_step_and_control_flow.md R60). -/

namespace Sys2Proof.Machine

/-! ### A STEP that fetches (R60) -/

theorem stepWith_of_fetch {s : State} {w : Word} (r : Option Byte) (h : s.fetch = .next w) :
    stepWith r s = exec (decode w) (s.beginStep r) := by
  simp only [stepWith, State.fetch_beginStep, h]

/-! ### What stores change in memory (R38, R83, R84) -/

theorem Memory.read_writeBytes_cases (m : Memory) (a a' : Nat) (bs : List Byte) :
    (m.writeBytes a bs).read a' = m.read a' ∨ a ≤ a' ∧ a' < a + bs.length := by
  by_cases h : a ≤ a' ∧ a' < a + bs.length
  · exact .inr h
  · exact .inl (Memory.read_writeBytes_outside bs m a a' (by omega))

/-- R30: the only ways of completing that write memory are those of Fx33 and Fx55. -/
theorem Completes.mem_read_cases {s t : State} {i : Instr} (h : Completes s i t) (a : Nat) :
    t.mem.read a = s.mem.read a ∨
    ((∃ x, i = .ldBcd x) ∧ s.i.toNat ≤ a ∧ a ≤ s.i.toNat + 2 ∧ a ≤ 4095) ∨
    (∃ x : Reg, i = .storeRegs x ∧ s.i.toNat ≤ a ∧ a ≤ s.i.toNat + x.val ∧ a ≤ 4095) := by
  cases h with
  | ldBcd x htop =>
    refine (s.mem.read_writeBytes_cases s.i.toNat a (decimalDigits (s.reg x))).imp_right ?_
    rintro ⟨hlo, hhi⟩
    rw [decimalDigits_length] at hhi
    exact .inl ⟨⟨x, rfl⟩, hlo, by omega, by omega⟩
  | storeRegs x htop =>
    refine (s.mem.read_writeBytes_cases s.i.toNat a (s.regsUpTo x)).imp_right ?_
    rintro ⟨hlo, hhi⟩
    rw [s.regsUpTo_length x] at hhi
    exact .inr ⟨x, rfl, hlo, by omega, by omega⟩
  | _ => left; simp

/-! ### The bytes an Fx55 stores (R84) -/

theorem exec_storeRegs_ok {s : State} {x : Reg} (h : s.i.toNat + x.val ≤ 4095) :
    exec (.storeRegs x) s =
      .next (s.setMem (s.mem.writeBytes s.i.toNat (s.regsUpTo x))).advance :=
  s.checkTop_ok _ h

theorem State.read_writeBytes_regsUpTo (s : State) (m : Memory) (a : Nat) {x j : Reg} (h : j ≤ x) :
    (m.writeBytes a (s.regsUpTo x)).read (a + j.val) = s.v[j] := by
  have hlength : j.val < (s.regsUpTo x).length := by
    rw [s.regsUpTo_length x]
    exact Nat.lt_succ_of_le h
  rw [Memory.read_writeBytes_inside _ m a j.val hlength, s.regsUpTo_get x j hlength]

theorem State.advance_pc_toNat {s : State} (h : s.pc.toNat + 2 < 65536) :
    s.advance.pc.toNat = s.pc.toNat + 2 := by
  rw [State.advance_pc, BitVec.toNat_add]
  exact Nat.mod_eq_of_lt h

/-! ### A word placed where the next step fetches (R32, R45) -/

theorem Memory.wordOfBytes_read_writeBytes (m : Memory) (a : Nat) (w : Word) :
    wordOfBytes ((m.writeBytes a (bytesOfWord w)).read a)
      ((m.writeBytes a (bytesOfWord w)).read (a + 1)) = w := by
  have hhi := Memory.read_writeBytes_inside (bytesOfWord w) m a 0 Nat.zero_lt_two
  have hlo := Memory.read_writeBytes_inside (bytesOfWord w) m a 1 Nat.one_lt_two
  rw [Nat.add_zero] at hhi
  rw [hhi, hlo]
  exact wordOfBytes_bytesOfWord w

theorem State.withFetchWord_pc_le (s : State) (nbits w : Nat) :
    (s.withFetchWord nbits w).pc.toNat ≤ 4094 := by
  by_cases h : s.pc.toNat > Config.fetchTop
  · simp [State.withFetchWord, h, Config.progBase]
  · have hle : s.pc.toNat ≤ 4094 := Nat.not_lt.mp h
    simpa [State.withFetchWord, h] using hle

theorem State.fetch_withFetchWord (s : State) (nbits w : Nat) :
    (s.withFetchWord nbits w).fetch = .next (BitVec.ofNat 16 (w % 2 ^ nbits)) := by
  rw [State.fetch_ok _ (s.withFetchWord_pc_le nbits w)]
  exact congrArg _ (Memory.wordOfBytes_read_writeBytes _ _ _)

theorem decodeTableWord_eq (nbits w : Nat) :
    decodeTableWord nbits w = some (decode (BitVec.ofNat 16 (w % 2 ^ nbits))) := by
  have hbytes := decodeBytes_bytesOfWord (BitVec.ofNat 16 (w % 2 ^ nbits)) []
  rw [List.append_nil] at hbytes
  simp only [decodeTableWord, hbytes]

end Sys2Proof.Machine

open Sys2Proof Sys2Proof.Machine

/-- Settles O8: within range the word of the two bytes, as a number; above it the fetch faults. -/
theorem fetchIsTwoBytesHighByteFirst : Obligations.FetchIsTwoBytesHighByteFirst :=
  fun s => ⟨fun h => ⟨_, s.fetch_ok h, wordOfBytes_toNat _ _⟩, s.fetch_fault⟩

/-- Settles O11: the two addresses of the fetch lie in the block the Fx55 stores, so each reads the
register stored there; in range of the store, pc + 2 does not wrap. -/
theorem storeIsSeenByTheNextFetch : Obligations.StoreIsSeenByTheNextFetch := by
  intro s x j k htop hj hk hjk hpc
  refine ⟨_, exec_storeRegs_ok htop, ?_⟩
  have hkx : k.val ≤ x.val := hk
  have hpc' : (s.setMem (s.mem.writeBytes s.i.toNat (s.regsUpTo x))).advance.pc.toNat =
      s.i.toNat + j.val := by
    rw [State.advance_pc_toNat (by rw [State.setMem_pc]; omega), State.setMem_pc, hpc]
  rw [State.fetch_ok _ (by omega), hpc', Nat.add_assoc, ← hjk, State.advance_mem, State.setMem_mem,
    s.read_writeBytes_regsUpTo _ _ hj, s.read_writeBytes_regsUpTo _ _ hk]

/-- Settles O43, from the ways of completing. -/
theorem onlyStoresChangeMemory : Obligations.OnlyStoresChangeMemory :=
  fun _ _ _ h => (completes_of_exec h).mem_read_cases

/-- Settles O57: the placed word is what the decoder reads and what the next STEP fetches. -/
theorem placedWordRunsNext : Obligations.PlacedWordRunsNext := by
  intro s w
  have hword : BitVec.ofNat 16 (w.toNat % 2 ^ 16) = w := by
    rw [BitVec.toNat_mod_cancel, BitVec.ofNat_toNat, BitVec.setWidth_eq]
  have hfetch := s.fetch_withFetchWord 16 w.toNat
  rw [hword] at hfetch
  constructor
  · rw [decodeTableWord_eq, hword]
  · rw [step_of_pending_nil rfl, stepWith_of_fetch none hfetch]

/-- Settles O7: both forms of the step are a STEP, which executes the word it fetches. -/
theorem stepRunsTheDecodedInstruction : Obligations.StepRunsTheDecodedInstruction := by
  intro s hpc
  refine ⟨fun h => ?free, fun r rest h => ?offered⟩
  case free =>
    rw [step_of_pending_nil h]
    exact stepWith_of_fetch none (s.fetch_ok hpc)
  case offered =>
    rw [step_of_pending_cons s h]
    exact stepWith_of_fetch (some r) (State.fetch_ok { s with pending := rest } hpc)

end

section
/-! SUPPORT. Decoding and encoding are inverse (spec 30_encoding.md R47, R49 to R52). -/

namespace Sys2Proof

variable {w : Word}

/-! ### A word is its operands and its selector -/

theorem encXYN_fields_selector {op : BitVec 4} {n : Fin 16} (hop : opField w = op.toNat)
    (hn : (nField w).val = n.val) : encXYN op (xField w) (yField w) n = w := by
  rw [← Fin.ext hn, encXYN_fields w op hop]

theorem encXNN_fields_selector {op : BitVec 4} {nn : Byte} (hop : opField w = op.toNat)
    (hnn : (nnField w).toNat = nn.toNat) : encXNN op (xField w) nn = w := by
  rw [← BitVec.eq_of_toNat_eq hnn, encXNN_fields w op hop]

/-! ### Every word is the encoding of what it decodes to (R47, R49)

One lemma for each high nibble that has a secondary selector. -/

/-- `w` is the encoding of the well-formed instruction `i`. -/
def IsEncoding (w : Word) (i : Instr) : Prop := i.wf = true ∧ encode i = w

theorem isEncoding_unknown (h : inUnknownSpace w = true) : IsEncoding w (.unknown w) := ⟨h, rfl⟩

theorem isEncoding_decode0 (h : opField w = 0x0) : IsEncoding w (decode0 w) := by
  unfold decode0
  split
  · next hw => exact ⟨rfl, hw.symm⟩
  split
  · next hw => exact ⟨rfl, hw.symm⟩
  · next hcls hret => exact isEncoding_unknown (by simpa [inUnknownSpace, h] using ⟨hcls, hret⟩)

theorem isEncoding_decode5 (h : opField w = 0x5) : IsEncoding w (decode5 w) := by
  unfold decode5
  split
  · next hn => exact ⟨rfl, encXYN_fields_selector h hn⟩
  · next hn => exact isEncoding_unknown (by simp [inUnknownSpace, h, hn])

theorem isEncoding_decode8 (h : opField w = 0x8) : IsEncoding w (decode8 w) := by
  unfold decode8
  split
  case h_7 =>
    have hn : 6 ≤ (nField w).val := by simp only [imp_false] at *; omega
    exact isEncoding_unknown (by simp [inUnknownSpace, h, hn])
  all_goals exact ⟨rfl, encXYN_fields_selector h ‹_›⟩

theorem isEncoding_decode9 (h : opField w = 0x9) : IsEncoding w (decode9 w) := by
  unfold decode9
  split
  · next hn => exact ⟨rfl, encXYN_fields_selector h hn⟩
  · next hn => exact isEncoding_unknown (by simp [inUnknownSpace, h, hn])

theorem isEncoding_decodeE (h : opField w = 0xE) : IsEncoding w (decodeE w) := by
  unfold decodeE
  split
  case h_3 h9E hA1 =>
    exact isEncoding_unknown (by simpa [inUnknownSpace, h, ← BitVec.toNat_inj] using ⟨h9E, hA1⟩)
  all_goals exact ⟨rfl, encXNN_fields_selector h ‹_›⟩

theorem isEncoding_decodeF (h : opField w = 0xF) : IsEncoding w (decodeF w) := by
  unfold decodeF
  split
  case h_9 =>
    have hnn : nnField w ∉ ([0x07, 0x0A, 0x15, 0x1E, 0x29, 0x33, 0x55, 0x65] : List Byte) := by
      simp_all [← BitVec.toNat_inj]
    exact isEncoding_unknown (by simpa [inUnknownSpace, h] using hnn)
  all_goals exact ⟨rfl, encXNN_fields_selector h ‹_›⟩

theorem isEncoding_decode (w : Word) : IsEncoding w (decode w) := by
  unfold decode
  split
  · next h => exact isEncoding_decode0 h
  · next h => exact ⟨rfl, encNNN_fields w 0x1 h⟩
  · next h => exact ⟨rfl, encNNN_fields w 0x2 h⟩
  · next h => exact ⟨rfl, encXNN_fields w 0x3 h⟩
  · next h => exact ⟨rfl, encXNN_fields w 0x4 h⟩
  · next h => exact isEncoding_decode5 h
  · next h => exact ⟨rfl, encXNN_fields w 0x6 h⟩
  · next h => exact ⟨rfl, encXNN_fields w 0x7 h⟩
  · next h => exact isEncoding_decode8 h
  · next h => exact isEncoding_decode9 h
  · next h => exact ⟨rfl, encNNN_fields w 0xA h⟩
  · next h => exact isEncoding_unknown (by simp [inUnknownSpace, h])
  · next h => exact ⟨rfl, encXNN_fields w 0xC h⟩
  · next h => exact ⟨rfl, encXYN_fields w 0xD h⟩
  · next h => exact isEncoding_decodeE h
  · next h => exact isEncoding_decodeF h
  · have hop : opField w < 16 := (nibbleAt w 12).isLt
    simp only [imp_false] at *
    omega

theorem encode_decode (w : Word) : encode (decode w) = w := (isEncoding_decode w).2

/-! ### Every well-formed instruction decodes back (R47, R51, R52) -/

/-- The encoding of an instruction of the opcode map is no unknown opcode. -/
theorem inUnknownSpace_encode {i : Instr} (h : i.rowNumber ≠ none) :
    inUnknownSpace (encode i) = false := by
  cases i with
  | unknown w => exact absurd rfl h
  | cls | ret => rfl
  | _ => simp [encode, inUnknownSpace]

theorem eq_unknown_of_rowNumber_eq_none {i : Instr} (h : i.rowNumber = none) :
    i = .unknown (encode i) := by
  cases i with
  | unknown w => rfl
  | _ => cases h

theorem decode_eq_unknown_of_rowNumber (h : (decode w).rowNumber = none) :
    decode w = .unknown w := by
  rw [eq_unknown_of_rowNumber_eq_none h, encode_decode]

theorem decode_of_inUnknownSpace (h : inUnknownSpace w = true) : decode w = .unknown w := by
  by_contra hne
  have hrow : (decode w).rowNumber ≠ none := fun h' => hne (decode_eq_unknown_of_rowNumber h')
  have hw := inUnknownSpace_encode hrow
  rw [encode_decode, h] at hw
  cases hw

theorem decode_encode {i : Instr} (h : i.wf = true) : decode (encode i) = i := by
  cases i with
  | unknown w => exact decode_of_inUnknownSpace h
  | cls | ret => rfl
  | jp | call | ldI | seImm | sneImm | ldImm | addImm | rnd | drw => simp [encode, decode]
  | seReg | ldReg | orReg | andReg | xorReg | addReg | subReg | sneReg =>
    simp [encode, decode, decode5, decode8, decode9]
  | skp | sknp | ldFromDt | ldKey | ldToDt | addI | ldFont | ldBcd | storeRegs | loadRegs =>
    simp [encode, decode, decodeE, decodeF]

/-- The decoder inverts the encoder on well-formed instructions. -/
theorem decode_eq_iff {i : Instr} : decode w = i ↔ IsEncoding w i := by
  constructor
  · rintro rfl; exact isEncoding_decode w
  · rintro ⟨hwf, rfl⟩; exact decode_encode hwf

end Sys2Proof

open Sys2Proof

/-- Settles O1: format by format the fields of the encoding are the operands, and an unknown word is the
encoding of nothing else, so it decodes to itself. -/
theorem encodedInstructionDecodesBack : Obligations.EncodedInstructionDecodesBack :=
  fun _ h => decode_encode h

/-- Settles O2, along the branches of the decoder. -/
theorem everyWordIsTheEncodingOfItsInstruction :
    Obligations.EveryWordIsTheEncodingOfItsInstruction :=
  isEncoding_decode

/-- Settles O6: each of the six words is the encoding of its instruction. -/
theorem wordsWrittenFromThePatternsDecode : Obligations.WordsWrittenFromThePatternsDecode := by
  simp only [Obligations.WordsWrittenFromThePatternsDecode, decode_eq_iff, IsEncoding]
  decide

end

section
/-! SUPPORT. The unknown-opcode space in numbers (spec 30_encoding.md R52), and the rows of the opcode
map read off the decoder (R49, R51). -/

namespace Sys2Proof

variable {w : Word}

/-! ### The table of R52 in numbers -/

theorem inUnknownSpace_iff : inUnknownSpace w = true ↔
    (w.toNat / 4096 = 0x0 ∧ w ≠ 0x00E0 ∧ w ≠ 0x00EE) ∨
    (w.toNat / 4096 = 0x5 ∧ w.toNat % 16 ≠ 0) ∨
    (w.toNat / 4096 = 0x8 ∧ 6 ≤ w.toNat % 16) ∨
    (w.toNat / 4096 = 0x9 ∧ w.toNat % 16 ≠ 0) ∨
    w.toNat / 4096 = 0xB ∨
    (w.toNat / 4096 = 0xE ∧ w.toNat % 256 ∉ [0x9E, 0xA1]) ∨
    (w.toNat / 4096 = 0xF ∧ w.toNat % 256 ∉ [0x07, 0x0A, 0x15, 0x1E, 0x29, 0x33, 0x55, 0x65]) := by
  unfold inUnknownSpace
  rw [opField_eq]
  split
  case h_8 =>
    simp only [imp_false] at *
    simp only [*, false_and, or_false, Bool.false_eq_true]
  case h_1 h => simp [h]
  case h_6 h | h_7 h => simp [h, ← BitVec.toNat_inj, nnField_toNat]
  case h_2 h | h_3 h | h_4 h | h_5 h => simp [h, ← nField_val]

/-! ### The fixed low nibble (R50) -/

theorem encXYN_and_000F (op : BitVec 4) (x y n : Fin 16) :
    encXYN op x y n &&& 0x000F = 0#4 ++ 0#4 ++ 0#4 ++ nibble n := by
  have h : encXYN op x y n &&& 0x000F =
      (op &&& 0#4) ++ (nibble x &&& 0#4) ++ (nibble y &&& 0#4) ++ (nibble n &&& 0xF) :=
    encXYN_and op 0 x 0 y 0 n 15
  simpa only [BitVec.and_zero, and_ones] using h

/-! ### The row of an instruction matches its word (R49, R51) -/

open Laws.EncodeSelectsRow in
theorem encodeSelectsRow : ∀ i : Instr, Statement i
  | .cls => cls
  | .ret => ret
  | .jp a => jp a
  | .call a => call a
  | .seImm x nn => seImm x nn
  | .sneImm x nn => sneImm x nn
  | .seReg x y => seReg x y
  | .ldImm x nn => ldImm x nn
  | .addImm x nn => addImm x nn
  | .ldReg x y => ldReg x y
  | .orReg x y => orReg x y
  | .andReg x y => andReg x y
  | .xorReg x y => xorReg x y
  | .addReg x y => addReg x y
  | .subReg x y => subReg x y
  | .sneReg x y => sneReg x y
  | .ldI a => ldI a
  | .rnd x nn => rnd x nn
  | .drw x y n => drw x y n
  | .skp x => skp x
  | .sknp x => sknp x
  | .ldFromDt x => ldFromDt x
  | .ldKey x => ldKey x
  | .ldToDt x => ldToDt x
  | .addI x => addI x
  | .ldFont x => ldFont x
  | .ldBcd x => ldBcd x
  | .storeRegs x => storeRegs x
  | .loadRegs x => loadRegs x
  | .unknown w => unknown w

theorem exists_row_of_rowNumber {k : Nat} (h : (decode w).rowNumber = some k) :
    ∃ r ∈ opcodeMap, r.num = k ∧ w &&& r.mask = r.mtch := by
  obtain ⟨r, hget, hnum, hmatch⟩ := encodeSelectsRow (decode w) k h
  rw [encode_decode] at hmatch
  exact ⟨r, List.mem_of_getElem? hget, hnum, hmatch⟩

/-! ### A word that matches a row decodes to that row's instruction (R49)

The mask of a row fixes the whole selector of the words it matches: such a word stands in the row that
the row's own `mtch` stands in. -/

theorem nibbleAt_eq_of_masked {m k : Word} {lo : Nat} (h : w &&& m = k) (hm : nibbleAt m lo = 15) :
    nibbleAt w lo = nibbleAt k lo := by
  have hand : nibble (nibbleAt k lo) = nibble (nibbleAt w lo) &&& nibble (nibbleAt m lo) := by
    rw [← h]; exact BitVec.extractLsb'_and ..
  rw [hm] at hand
  exact (congrArg BitVec.toFin (hand.trans (and_ones _))).symm

theorem nnField_eq_of_masked {m k : Word} (h : w &&& m = k) (hm : nnField m = BitVec.allOnes 8) :
    nnField w = nnField k := by
  have hand : nnField k = nnField w &&& nnField m := by
    rw [← h]; exact BitVec.extractLsb'_and ..
  rw [hand, hm, BitVec.and_allOnes]

/-- The decoder's choice of row reads `op` and, where the map has one, the secondary selector. -/
theorem rowNumber_decode_congr {w' : Word} (hop : opField w = opField w')
    (h0 : opField w' = 0x0 → w = w')
    (hn : opField w' ∈ [0x5, 0x8, 0x9] → nField w = nField w')
    (hnn : opField w' ∈ [0xE, 0xF] → nnField w = nnField w') :
    (decode w).rowNumber = (decode w').rowNumber := by
  unfold decode
  rw [hop]
  split
  case h_1 h => rw [h0 h]
  case h_6 h => simp only [decode5, hn (by simp [h])]; split <;> rfl
  case h_9 h => simp only [decode8, hn (by simp [h])]; split <;> rfl
  case h_10 h => simp only [decode9, hn (by simp [h])]; split <;> rfl
  case h_15 h => simp only [decodeE, hnn (by simp [h])]; split <;> rfl
  case h_16 h => simp only [decodeF, hnn (by simp [h])]; split <;> rfl
  all_goals rfl

/-- What the masks of R51 fix, row by row. -/
theorem mask_fixes_selector : ∀ r ∈ opcodeMap,
    nibbleAt r.mask 12 = 15 ∧ (opField r.mtch = 0x0 → r.mask = BitVec.allOnes 16) ∧
    (opField r.mtch ∈ [0x5, 0x8, 0x9] → nibbleAt r.mask 0 = 15) ∧
    (opField r.mtch ∈ [0xE, 0xF] → nnField r.mask = BitVec.allOnes 8) := by decide

theorem rowNumber_decode_mtch : ∀ r ∈ opcodeMap, (decode r.mtch).rowNumber = some r.num := by decide

theorem rowNumber_of_selects {r : MapRow} (hr : r ∈ opcodeMap) (h : w &&& r.mask = r.mtch) :
    (decode w).rowNumber = some r.num := by
  obtain ⟨hop, h0, hn, hnn⟩ := mask_fixes_selector r hr
  rw [← rowNumber_decode_mtch r hr]
  refine rowNumber_decode_congr (congrArg Fin.val (nibbleAt_eq_of_masked h hop)) (fun h' => ?_)
    (fun h' => nibbleAt_eq_of_masked h (hn h')) (fun h' => nnField_eq_of_masked h (hnn h'))
  rw [← h, h0 h', BitVec.and_allOnes]

theorem row_eq_of_num : ∀ r ∈ opcodeMap, ∀ r' ∈ opcodeMap, r.num = r'.num → r = r' := by decide

end Sys2Proof

open Sys2Proof

/-- Settles O5: the words the decoder finds unknown are those of `inUnknownSpace`, and these are the
table. -/
theorem unknownSpaceIsTheListedWords : Obligations.UnknownSpaceIsTheListedWords := by
  intro w
  rw [decode_eq_iff, ← inUnknownSpace_iff]
  exact and_iff_left rfl

/-- Settles O4: a word that decodes to an instruction is its encoding, and the encodings of 00E0, 00EE,
5xy0 and 9xy0 have the fixed nibbles. -/
theorem fixedNibblesAreMatchedExactly : Obligations.FixedNibblesAreMatchedExactly := by
  simp only [Obligations.FixedNibblesAreMatchedExactly, decode_eq_iff, IsEncoding]
  refine ⟨fun w => ?cls, fun w => ?ret, ?seReg, ?sneReg, ?words⟩
  case cls => exact (and_iff_right rfl).trans eq_comm
  case ret => exact (and_iff_right rfl).trans eq_comm
  case seReg => rintro _ x y ⟨-, rfl⟩; exact encXYN_and_000F 0x5 x y 0
  case sneReg => rintro _ x y ⟨-, rfl⟩; exact encXYN_and_000F 0x9 x y 0
  case words => decide

/-- Settles O3: a word matches a row exactly if its instruction has the row's number, and no two rows share
a number; without a row an instruction is unknown. -/
theorem decoderSelectsTheMatchingRow : Obligations.DecoderSelectsTheMatchingRow := by
  refine ⟨fun w r hr => ⟨rowNumber_of_selects hr, fun h => ?selects⟩,
    fun w r hr r' hr' h h' => ?disjoint, fun w => ⟨fun hnone => ?unknown, fun h r hr hsel => ?known⟩⟩
  case selects =>
    obtain ⟨r', hr', hnum, hsel⟩ := exists_row_of_rowNumber h
    rwa [← row_eq_of_num r' hr' r hr hnum]
  case disjoint =>
    have hnum := (rowNumber_of_selects hr h).symm.trans (rowNumber_of_selects hr' h')
    exact row_eq_of_num r hr r' hr' (Option.some.inj hnum)
  case unknown =>
    refine decode_eq_unknown_of_rowNumber (Option.eq_none_iff_forall_ne_some.mpr fun k hk => ?_)
    obtain ⟨r, hr, -, hsel⟩ := exists_row_of_rowNumber hk
    exact hnone r hr hsel
  case known =>
    have hrow := rowNumber_of_selects hr hsel
    rw [h] at hrow
    cases hrow

end

section
/-! SUPPORT. No meaning, event or step ends in a refusal (spec 30_encoding.md R53, 60_exceptions.md R100). -/

namespace Sys2Proof.Machine

variable {s : State} {q : Refusal}

theorem State.checkTop_ne_refused {last : Nat} {r : Result} (h : r ≠ .refused q) :
    s.checkTop last r ≠ .refused q := by
  unfold State.checkTop
  split
  · exact nofun
  · exact h

theorem State.keySkip_ne_refused {x : Reg} {level : Bool} : s.keySkip x level ≠ .refused q := by
  unfold State.keySkip
  split <;> exact nofun

theorem execRet_ne_refused : execRet s ≠ .refused q := by
  unfold execRet
  split <;> exact nofun

theorem execCall_ne_refused {a : Imm12} : execCall a s ≠ .refused q := by
  unfold execCall
  split <;> exact nofun

theorem execDrw_ne_refused {x y : Reg} {n : Fin 16} : execDrw x y n s ≠ .refused q := by
  unfold execDrw
  split
  · exact nofun
  · exact State.checkTop_ne_refused nofun

theorem execLdKey_ne_refused {x : Reg} : execLdKey x s ≠ .refused q := by
  unfold execLdKey
  split <;> exact nofun

theorem exec_ne_refused (i : Instr) : exec i s ≠ .refused q := by
  cases i with
  | ret => exact execRet_ne_refused
  | call a => exact execCall_ne_refused
  | drw x y n => exact execDrw_ne_refused
  | skp x | sknp x => exact State.keySkip_ne_refused
  | ldKey x => exact execLdKey_ne_refused
  | ldBcd x | storeRegs x | loadRegs x => exact State.checkTop_ne_refused nofun
  | _ => exact nofun

theorem stepWith_ne_refused (r : Option Byte) : stepWith r s ≠ .refused q := by
  obtain ⟨-, h⟩ | ⟨-, h⟩ := stepWith_cases s r
  · rw [h]; exact exec_ne_refused _
  · rw [h]; exact nofun

theorem State.loadWith_ne_refused {font : Vector Byte 80} {rom : List Byte} :
    s.loadWith font rom ≠ .refused q := by
  unfold State.loadWith
  split <;> exact nofun

theorem applyEvent_ne_refused (e : Event) : applyEvent e s ≠ .refused q := by
  cases e with
  | load rom => exact State.loadWith_ne_refused
  | step r => exact stepWith_ne_refused (some r)
  | setKey | tick | fbRead => exact nofun

end Sys2Proof.Machine

open Sys2Proof.Machine

/-- Settles O37: a step is an event, and no event is refused since no meaning is. -/
theorem noStepIsRefused : Obligations.NoStepIsRefused := by
  intro s q
  cases h : s.pending with
  | nil => rw [step_of_pending_nil h]; exact stepWith_ne_refused none
  | cons e rest => rw [step_of_pending_cons s h]; exact applyEvent_ne_refused e

end

section
/-! SUPPORT. The meanings of return, call and the register skips as equations (spec
40_step_and_control_flow.md R62 to R68). -/

namespace Sys2Proof.Machine

variable (s : State)

/-! ### Return (R62) -/

theorem exec_ret_ok (h : s.sp.val ≠ 0) : exec .ret s = .next s.pop.advance := if_neg h

theorem exec_ret_fault (h : s.sp.val = 0) : exec .ret s = .fault (.stackUnderflow s.pc) := if_pos h

/-- A return from `n + 1` occupied slots as one update: it pops slot `n`. -/
theorem State.pop_advance_eq {n : Fin 16} (h : s.sp.val = n.val + 1) :
    s.pop.advance = { s with sp := n.castSucc, pc := s.stack[n] + 2 } := by
  simp only [State.pop, State.advance, h, Nat.add_sub_cancel]
  rfl

/-! ### Call (R64) -/

theorem exec_call_ok (a : Imm12) (h : s.sp.val ≠ 16) :
    exec (.call a) s = .next ((s.push s.pc h).setPc (address a)) := dif_neg h

theorem exec_call_fault (a : Imm12) (h : s.sp.val = 16) :
    exec (.call a) s = .fault (.stackOverflow s.pc) := dif_pos h

/-! ### The register skips (R65 to R68) -/

/-- A skip moves pc by 4 where the condition that its Boolean decides holds, else by 2. -/
theorem State.advanceSkip_of_iff {c : Bool} {p : Prop} [Decidable p] (h : c = true ↔ p) :
    s.advanceSkip c = { s with pc := s.pc + if p then 4 else 2 } := by
  simp only [State.advanceSkip_eq, h]

theorem exec_seImm (x : Reg) (nn : Byte) :
    exec (.seImm x nn) s = .next { s with pc := s.pc + if s.v[x] = nn then 4 else 2 } :=
  congrArg _ (s.advanceSkip_of_iff beq_iff_eq)

theorem exec_sneImm (x : Reg) (nn : Byte) :
    exec (.sneImm x nn) s = .next { s with pc := s.pc + if s.v[x] ≠ nn then 4 else 2 } :=
  congrArg _ (s.advanceSkip_of_iff bne_iff_ne)

theorem exec_seReg (x y : Reg) :
    exec (.seReg x y) s = .next { s with pc := s.pc + if s.v[x] = s.v[y] then 4 else 2 } :=
  congrArg _ (s.advanceSkip_of_iff beq_iff_eq)

theorem exec_sneReg (x y : Reg) :
    exec (.sneReg x y) s = .next { s with pc := s.pc + if s.v[x] ≠ s.v[y] then 4 else 2 } :=
  congrArg _ (s.advanceSkip_of_iff bne_iff_ne)

end Sys2Proof.Machine

open Sys2Proof Sys2Proof.Machine

/-- Settles O12: with SP above 0 the pop and the advance are one update, and with SP = 0 the guard
faults. -/
theorem returnPopsAndAdvances : Obligations.ReturnPopsAndAdvances := by
  refine fun s => ⟨fun n h => ?pops, exec_ret_fault s⟩
  case pops => rw [exec_ret_ok s (by omega), s.pop_advance_eq h]

/-- Settles O13: the target is nnn zero-extended, so pc is nnn as a number. -/
theorem jumpSetsPcExactly : Obligations.JumpSetsPcExactly :=
  fun _ nnn => ⟨address nnn, rfl, address_toNat nnn⟩

/-- Settles O14: with a free slot the push writes pc into slot SP before the jump, and with SP = 16 the
guard faults. -/
theorem callPushesItsOwnAddress : Obligations.CallPushesItsOwnAddress := by
  refine fun s nnn => ⟨fun n h => ?pushes, exec_call_fault s nnn⟩
  case pushes =>
    have hfree : s.sp.val ≠ 16 := by omega
    have hsp : (s.push s.pc hfree).sp = n.succ := Fin.ext (congrArg Nat.succ h)
    refine ⟨address nnn, (s.push s.pc hfree).stack, ?_, address_toNat nnn, fun j => ?_⟩
    · rw [exec_call_ok s nnn hfree, ← hsp]
      rfl
    · rw [s.push_slot s.pc hfree j, h]
      simp only [Fin.ext_iff]

/-- Settles O15: the call put its own address into the slot that the return pops. -/
theorem returnResumesAfterTheCall : Obligations.ReturnResumesAfterTheCall := by
  intro s nnn hfree
  obtain ⟨n, hn⟩ : ∃ n : Fin 16, s.sp.val = n.val := ⟨⟨_, hfree⟩, rfl⟩
  obtain ⟨w, st', hcall, -, hslot⟩ := (callPushesItsOwnAddress s nnn).1 n hn
  refine ⟨_, hcall, fun u hstack hsp => ?_⟩
  have hpopped : u.stack[n] = s.pc := by rw [hstack]; exact (hslot n).trans (if_pos rfl)
  have hsp' : s.sp = n.castSucc := Fin.ext hn
  rw [(returnPopsAndAdvances u).1 n (by rw [hsp]; rfl), hpopped, hsp']

/-- Settles O16: with x = y the comparison of 5xy0 holds and that of 9xy0 fails. -/
theorem registerSkipsMovePcByTwoOrFour : Obligations.RegisterSkipsMovePcByTwoOrFour := by
  intro s x y nn
  refine ⟨exec_seImm s x nn, exec_sneImm s x nn, exec_seReg s x y, exec_sneReg s x y, ?always, ?never⟩
  case always => rw [exec_seReg, if_pos rfl]
  case never => rw [exec_sneReg, if_neg (not_not_intro rfl)]

end

section
/-! SUPPORT. The byte a STEP offers, and what does not read it (spec 60_exceptions.md R111). -/

namespace Sys2Proof.Machine

/-- `s` with another byte offered to the STEP in progress. -/
def State.offer (r : Option Byte) (s : State) : State := { s with rnd := r }

/-- A result with another byte offered: a fault carries no state. -/
def Result.offer (r : Option Byte) : Result → Result
  | .next t => .next (t.offer r)
  | .fault f => .fault f
  | .refused q => .refused q

variable (s : State) (r : Option Byte)

/-! ### The shared operations -/

theorem State.advanceSkip_offer (c : Bool) :
    (s.offer r).advanceSkip c = (s.advanceSkip c).offer r := by
  cases c <;> rfl

theorem State.checkTop_offer (last : Nat) (t : State) :
    (s.offer r).checkTop last (.next (t.offer r)) = Result.offer r (s.checkTop last (.next t)) := by
  rw [State.checkTop, State.checkTop, apply_ite (Result.offer r)]
  rfl

theorem State.keySkip_offer (x : Reg) (level : Bool) :
    (s.offer r).keySkip x level = Result.offer r (s.keySkip x level) := by
  rw [State.keySkip, State.keySkip, apply_dite (Result.offer r)]
  exact dite_congr rfl (fun _ => rfl) fun _ => congrArg _ (s.advanceSkip_offer r _)

/-! ### The guarded meanings -/

theorem execRet_offer : execRet (s.offer r) = Result.offer r (execRet s) := by
  rw [execRet, execRet, apply_ite (Result.offer r)]
  rfl

theorem execCall_offer (a : Imm12) : execCall a (s.offer r) = Result.offer r (execCall a s) := by
  rw [execCall, execCall, apply_dite (Result.offer r)]
  rfl

theorem execDrw_offer (x y : Reg) (n : Fin 16) :
    execDrw x y n (s.offer r) = Result.offer r (execDrw x y n s) := by
  rw [execDrw, execDrw, apply_ite (Result.offer r)]
  exact ite_congr rfl (fun _ => rfl) fun _ => s.checkTop_offer r (n.val - 1) (s.drawSprite x y n.val)

theorem execLdKey_offer (x : Reg) : execLdKey x (s.offer r) = Result.offer r (execLdKey x s) := by
  have hkey : (s.offer r).leastKey = s.leastKey := rfl
  rw [execLdKey, execLdKey, hkey]
  cases s.leastKey <;> rfl

/-! ### The execute stage -/

/-- Offering another byte before an instruction other than Cxnn is offering it after. -/
theorem exec_offer {i : Instr} (h : ∀ x nn, i ≠ .rnd x nn) :
    exec i (s.offer r) = Result.offer r (exec i s) := by
  cases i with
  | rnd x nn => exact absurd rfl (h x nn)
  | ret => exact execRet_offer s r
  | call a => exact execCall_offer s r a
  | seImm | sneImm | seReg | sneReg => exact congrArg _ (s.advanceSkip_offer r _)
  | drw x y n => exact execDrw_offer s r x y n
  | skp x => exact s.keySkip_offer r x true
  | sknp x => exact s.keySkip_offer r x false
  | ldKey x => exact execLdKey_offer s r x
  | ldBcd x =>
    exact s.checkTop_offer r 2
      (s.setMem (s.mem.writeBytes s.i.toNat (decimalDigits (s.reg x)))).advance
  | storeRegs x =>
    exact s.checkTop_offer r x.val (s.setMem (s.mem.writeBytes s.i.toNat (s.regsUpTo x))).advance
  | loadRegs x => exact s.checkTop_offer r x.val (s.setRegs (s.loadUpTo x)).advance
  | _ => rfl

end Sys2Proof.Machine

open Sys2Proof Sys2Proof.Machine

/-- Settles O46: the byte may as well be offered after the instruction, where a next state holds it and a
fault does not. -/
theorem onlyRandomReadsTheOfferedByte : Obligations.OnlyRandomReadsTheOfferedByte := by
  intro i s r hi
  have hoffer : exec i { s with rnd := r } = Result.offer r (exec i s) := exec_offer s r hi
  refine ⟨fun t ht => ?next, fun f hf => ?fault⟩
  case next => rw [hoffer, ht]; rfl
  case fault => rw [hoffer, hf]; rfl

end

section
/-! SUPPORT. A jump to its own address (spec 70_reset_and_hazards.md R131). -/

namespace Sys2Proof.Machine

/-- The word at pc is the 1nnn that jumps to pc. -/
structure State.AtSelfJump (s : State) (nnn : Imm12) : Prop where
  fetch : s.fetch = .next (encode (.jp nnn))
  pc : s.pc.toNat = nnn.toNat

/-- The events of R131. -/
def Event.KeepsSelfJump (e : Event) : Prop :=
  e = .tick ∨ (∃ k p, e = .setKey k p) ∨ ∃ b, e = .step b

variable {s : State} {nnn : Imm12}

/-- The jump goes where pc stands (R63), so the STEP leaves what its start leaves. -/
theorem State.AtSelfJump.stepWith_eq (h : s.AtSelfJump nnn) (r : Option Byte) :
    stepWith r s = .next (s.beginStep r) := by
  have hdecode : decode (encode (.jp nnn)) = .jp nnn := decode_encode rfl
  have haddress : address nnn = s.pc := BitVec.eq_of_toNat_eq ((address_toNat nnn).trans h.pc.symm)
  rw [stepWith_of_fetch r h.fetch, hdecode]
  simp only [exec, execJp, haddress]
  rfl

theorem State.AtSelfJump.applyEvent_next (h : s.AtSelfJump nnn) {e : Event} (he : e.KeepsSelfJump) :
    ∃ t : State, applyEvent e s = .next t ∧ t.AtSelfJump nnn := by
  obtain rfl | ⟨k, p, rfl⟩ | ⟨b, rfl⟩ := he
  · exact ⟨_, applyEvent_tick s, h.fetch, h.pc⟩
  · exact ⟨_, applyEvent_setKey s k p, h.fetch, h.pc⟩
  · exact ⟨_, h.stepWith_eq (some b), h.fetch, h.pc⟩

theorem State.AtSelfJump.safeRun (h : s.AtSelfJump nnn) {es : List Event}
    (hes : ∀ e ∈ es, e.KeepsSelfJump) : SafeRun es s := by
  induction es generalizing s with
  | nil => trivial
  | cons e es ih =>
    obtain ⟨he, hes⟩ := List.forall_mem_cons.mp hes
    obtain ⟨t, hnext, ht⟩ := h.applyEvent_next he
    exact ⟨t, hnext, ih ht hes⟩

end Sys2Proof.Machine

open Sys2Proof Sys2Proof.Machine

/-- Settles O56: every event of the run completes and leaves the machine at the same jump. -/
theorem selfJumpIsAFixedPoint : Obligations.SelfJumpIsAFixedPoint := by
  intro s nnn hfetch hpc
  have h : s.AtSelfJump nnn := ⟨hfetch, hpc⟩
  exact ⟨fun r => h.stepWith_eq (some r), fun es hes => h.safeRun hes⟩

end

section
/-! SUPPORT. The invariant of every reachable state (spec 70_reset_and_hazards.md R133), clause by clause
over the ways an instruction completes. -/

namespace Sys2Proof.Machine

variable {s t : State} {i : Instr}

/-! ### An instruction that passed a fetch (R35) -/

/-- log 15: the only writers of memory, Fx33 and Fx55, write inside MEM. -/
theorem Completes.mem_wf (h : Completes s i t) (hmem : s.mem.wf = true) : t.mem.wf = true := by
  cases h with
  | ldBcd x htop =>
    refine Memory.wf_writeBytes _ ?_ hmem
    rw [decimalDigits_length]
    exact Nat.succ_le_succ htop
  | storeRegs x htop =>
    refine Memory.wf_writeBytes _ ?_ hmem
    rw [s.regsUpTo_length x]
    exact Nat.succ_le_succ htop
  | _ => simpa using hmem

theorem word_add_le {w d : Word} (hw : w.toNat ≤ 4094) (hd : d.toNat ≤ 4) :
    (w + d).toNat ≤ 4098 := by
  rw [BitVec.toNat_add]
  omega

theorem State.advanceSkip_pc_le (c : Bool) (hpc : s.pc.toNat ≤ 4094) :
    (s.advanceSkip c).pc.toNat ≤ 4098 := by
  rw [State.advanceSkip_pc]
  exact word_add_le hpc (by cases c <;> decide)

/-- A jump goes below 4096, a return to 2 above an occupied slot, and every other instruction moves pc by
at most 4 (R14). -/
theorem Completes.pc_le (h : Completes s i t) (hpc : s.pc.toNat ≤ 4094) (hs : s.Inv) :
    t.pc.toNat ≤ 4098 := by
  cases h with
  | ret hsp =>
    obtain ⟨n, hn, hpop⟩ := s.pop_advance_pc hsp
    rw [hpop]
    exact word_add_le (hs.slots n (by omega)) (by decide)
  | jp a | call a =>
    rw [State.setPc_pc, address_toNat]
    omega
  | ldKeyWaits => omega
  | seImm | sneImm | seReg | sneReg | skp | sknp => exact State.advanceSkip_pc_le _ hpc
  | _ => exact word_add_le hpc (by decide)

/-- A call fills its slot with the pc that was fetched from; nothing else fills one (R17). -/
theorem Completes.slots_le (h : Completes s i t) (hpc : s.pc.toNat ≤ 4094) (hs : s.Inv) :
    ∀ j : Fin 16, j.val < t.sp.val → t.stack[j].toNat ≤ 4094 := by
  intro j hj
  obtain ⟨hsp, hstack⟩ | ⟨-, hsp, hstack⟩ | ⟨-, hsp, hstack⟩ := h.stack_cases
  · rw [hstack]; exact hs.slots j (by rwa [hsp] at hj)
  · rw [hstack]
    split
    · exact hpc
    · exact hs.slots j (by omega)
  · rw [hstack]; exact hs.slots j (by omega)

theorem Completes.inv (h : Completes s i t) (hpc : s.pc.toNat ≤ 4094) (hs : s.Inv) : t.Inv where
  mem := h.mem_wf hs.mem
  soundTimer := by
    obtain ⟨-, hst, -⟩ := h.keys_timers_host
    rw [hst, hs.soundTimer]
  pc := h.pc_le hpc hs
  slots := h.slots_le hpc hs

/-! ### The events (R5) -/

theorem stepWith_inv (r : Option Byte) (hs : s.Inv) (h : stepWith r s = .next t) : t.Inv := by
  obtain ⟨hpc, hstep⟩ | ⟨-, hstep⟩ := stepWith_cases s r
  · have hbegin : (s.beginStep r).Inv := ⟨hs.mem, hs.soundTimer, hs.pc, hs.slots⟩
    exact (completes_of_exec (hstep.symm.trans h)).inv hpc hbegin
  · rw [hstep] at h
    cases h

/-- Whatever state a LOAD is given (R121). -/
theorem State.loadWith_inv {font : Vector Byte 80} {rom : List Byte}
    (h : s.loadWith font rom = .next t) : t.Inv := by
  unfold State.loadWith at h
  split at h
  · cases h
  · next hlength =>
    cases h
    exact { State.reset_inv with mem := imageMemory_wf font rom (Nat.not_lt.mp hlength) }

theorem State.tick_inv (hs : s.Inv) : s.tick.Inv :=
  { hs with soundTimer := by rw [State.tick_st, hs.soundTimer]; rfl }

theorem applyEvent_inv {e : Event} (hs : s.Inv) (h : applyEvent e s = .next t) : t.Inv := by
  cases e with
  | load rom => exact State.loadWith_inv h
  | step r => exact stepWith_inv (some r) hs h
  | setKey k p => cases h; exact ⟨hs.mem, hs.soundTimer, hs.pc, hs.slots⟩
  | tick => cases h; exact State.tick_inv hs
  | fbRead => cases h; exact hs

end Sys2Proof.Machine

open Sys2Proof.Machine

/-- Settles O54: a step is a STEP or the event at the head of the list, and every event keeps the
invariant. -/
theorem everyStepKeepsTheInvariant : Obligations.EveryStepKeepsTheInvariant := by
  intro s t hs h
  cases hpending : s.pending with
  | nil =>
    rw [step_of_pending_nil hpending] at h
    exact stepWith_inv none hs h
  | cons e rest =>
    rw [step_of_pending_cons s hpending] at h
    have hrest : ({ s with pending := rest } : State).Inv := ⟨hs.mem, hs.soundTimer, hs.pc, hs.slots⟩
    exact applyEvent_inv hrest h

end

section
/-! SUPPORT. Register load, arithmetic, logic and random as register writes (spec 41_alu.md R70 to
R79). -/

namespace Sys2Proof.Machine

/-! ### Bytes (R79) -/

theorem byte_add_eq (a b : Byte) : a + b = BitVec.ofNat 8 ((a.toNat + b.toNat) % 256) :=
  BitVec.eq_of_toNat_eq (by simp)

theorem byte_sub_eq (a b : Byte) : a - b = BitVec.ofNat 8 ((256 + a.toNat - b.toNat) % 256) :=
  BitVec.eq_of_toNat_eq (by rw [BitVec.toNat_sub, BitVec.toNat_ofNat]; omega)

/-- R76 with x = y = 15: the sum of the new flag with itself. -/
theorem carryFlag_self_add_self (a : Byte) :
    carryFlag a a + carryFlag a a = if a.toNat ≥ 128 then 2 else 0 := by
  unfold carryFlag
  by_cases h : a.toNat ≥ 128
  · rw [if_pos h, if_pos (by omega)]; rfl
  · rw [if_neg h, if_neg (by omega)]; rfl

variable {s : State} {i : Instr} {x y : Reg}

/-! ### One register write, and a result over a flag -/

theorem WritesRegs.congr {f g : Reg → Byte} (h : WritesRegs i s f) (hfg : ∀ r, f r = g r) :
    WritesRegs i s g := by
  obtain ⟨v', hexec, hv⟩ := h
  exact ⟨v', hexec, fun r => (hv r).trans (hfg r)⟩

theorem writesReg_of_exec {b : Byte} (h : exec i s = s.result x b) : WritesReg i s x b :=
  ⟨(s.setV x b).v, h, fun r => s.reg_setV x r b⟩

/-- The flag is written first, so where both go to one register the result stays. -/
theorem writesRegs_of_exec_flag {c b : Byte} (h : exec i s = (s.setV VF c).result x b) :
    WritesRegs i s fun r => if r = x then b else if r = 15 then c else s.v[r] := by
  refine ⟨((s.setV VF c).setV x b).v, h, fun r => ?_⟩
  have hresult := (s.setV VF c).reg_setV x r b
  rwa [s.reg_setV VF r c] at hresult

/-- With x = 15 the result overwrites the flag. -/
theorem WritesRegs.writesReg_VF {c b : Byte}
    (h : WritesRegs i s fun r => if r = 15 then b else if r = 15 then c else s.v[r]) :
    WritesReg i s 15 b :=
  h.congr fun _ => ite_congr rfl (fun _ => rfl) fun hr => if_neg hr

/-- A result equal to what `V[x]` held leaves the write of the flag alone. -/
theorem WritesRegs.writesReg_flag {c : Byte} (hx : x ≠ 15)
    (h : WritesRegs i s fun r => if r = x then s.v[x] else if r = 15 then c else s.v[r]) :
    WritesReg i s 15 c := by
  refine h.congr fun r => ?_
  by_cases hr : r = x
  · subst hr; rw [if_pos rfl, if_neg hx]
  · exact if_neg hr

/-! ### 8xy4 and 8xy5 (R76, R77): the operands are read again after the flag is written -/

theorem addReg_writes {c b : Byte} (hc : carryFlag s.v[x] s.v[y] = c)
    (hb : (s.setV VF c).reg x + (s.setV VF c).reg y = b) :
    WritesRegs (.addReg x y) s fun r => if r = x then b else if r = 15 then c else s.v[r] := by
  subst hc hb
  exact writesRegs_of_exec_flag rfl

theorem subReg_writes {c b : Byte} (hc : noBorrowFlag s.v[x] s.v[y] = c)
    (hb : (s.setV VF c).reg x - (s.setV VF c).reg y = b) :
    WritesRegs (.subReg x y) s fun r => if r = x then b else if r = 15 then c else s.v[r] := by
  subst hc hb
  exact writesRegs_of_exec_flag rfl

/-! ### The random byte (R78) -/

theorem State.rndByte_of_offered {b : Byte} (h : s.rnd = some b) : s.rndByte = b := by
  rw [State.rndByte, h]; rfl

theorem State.rndByte_of_free (h : s.rnd = none) : s.rndByte = Config.randomByte s.draws := by
  rw [State.rndByte, h]; rfl

theorem State.consumeRnd_of_offered {b : Byte} (h : s.rnd = some b) : s.consumeRnd = s := by
  rw [State.consumeRnd, if_neg (by simp [h])]

theorem State.consumeRnd_of_free (h : s.rnd = none) :
    s.consumeRnd = { s with draws := s.draws + 1 } := by
  rw [State.consumeRnd, if_pos (by simp [h])]

theorem exec_rnd (s : State) (x : Reg) (nn : Byte) :
    exec (.rnd x nn) s = s.consumeRnd.result x (nn &&& s.rndByte) := rfl

end Sys2Proof.Machine

open Sys2Proof Sys2Proof.Machine

/-- Settles O17: each is one register write. -/
theorem loadAndCopyWriteOneRegister : Obligations.LoadAndCopyWriteOneRegister :=
  fun _ _ _ _ => ⟨writesReg_of_exec rfl, writesReg_of_exec rfl⟩

/-- Settles O18: one register write, whose byte is the sum modulo 256. -/
theorem addImmediateWrapsWithoutFlag : Obligations.AddImmediateWrapsWithoutFlag := by
  intro s x nn
  rw [← byte_add_eq]
  exact writesReg_of_exec rfl

/-- Settles O19: each is one register write, of the byte that the operation gives bit by bit. -/
theorem logicIsBitwiseWithoutFlag : Obligations.LogicIsBitwiseWithoutFlag :=
  fun s x y => ⟨s.v[x] ||| s.v[y], s.v[x] &&& s.v[y], s.v[x] ^^^ s.v[y],
    writesReg_of_exec rfl, writesReg_of_exec rfl, writesReg_of_exec rfl,
    fun k => ⟨BitVec.getElem_or k.isLt, BitVec.getElem_and k.isLt, BitVec.getElem_xor k.isLt⟩⟩

/-- Settles O20: an operand that is VF is the new flag in the sum, any other its old value, and the sum
is written over the flag. -/
theorem addWritesTheCarryThenTheSum : Obligations.AddWritesTheCarryThenTheSum := by
  refine fun s x y => ⟨fun hx hy => ?plain, fun hx hy => ⟨_, rfl, ?addsFlag⟩,
    fun hx hy => ⟨_, rfl, ?overwritesFlag⟩, fun hx hy => ?both⟩
  case plain =>
    refine addReg_writes rfl ?_
    rw [s.reg_setV_other VF x _ hx, s.reg_setV_other VF y _ hy]
    exact byte_add_eq _ _
  case addsFlag =>
    subst hy
    refine addReg_writes rfl ?_
    rw [s.reg_setV_other VF x _ hx, s.reg_setV_same VF]
    exact byte_add_eq _ _
  case overwritesFlag =>
    subst hx
    refine (addReg_writes rfl ?_).writesReg_VF
    rw [s.reg_setV_same VF, s.reg_setV_other VF y _ hy]
    exact byte_add_eq _ _
  case both =>
    subst hx hy
    refine (addReg_writes rfl ?_).writesReg_VF
    rw [s.reg_setV_same VF]
    exact carryFlag_self_add_self _

/-- Settles O21: as for the sum; in the cases that name VF the comparison fixes the flag, 0 or 1, that
the difference uses. -/
theorem subtractWritesNoBorrowThenTheDifference :
    Obligations.SubtractWritesNoBorrowThenTheDifference := by
  refine fun s x y => ⟨fun hx hy => ?plain, fun hx hy hlt => ?lessZero, fun hx hy hle => ?lessOne,
    fun hx hy hlt => ?fromZero, fun hx hy hle => ?fromOne, fun hx hy => ?both⟩
  case plain =>
    refine subReg_writes rfl ?_
    rw [s.reg_setV_other VF x _ hx, s.reg_setV_other VF y _ hy]
    exact byte_sub_eq _ _
  case lessZero =>
    subst hy
    refine (subReg_writes (if_pos hlt) ?_).writesReg_flag hx
    rw [s.reg_setV_other VF x _ hx, s.reg_setV_same VF]
    exact BitVec.sub_zero _
  case lessOne =>
    subst hy
    refine subReg_writes (if_neg (Nat.not_lt.mpr hle)) ?_
    rw [s.reg_setV_other VF x _ hx, s.reg_setV_same VF]
    exact byte_sub_eq _ 1
  case fromZero =>
    subst hx
    refine (subReg_writes (if_pos hlt) ?_).writesReg_VF
    rw [s.reg_setV_same VF, s.reg_setV_other VF y _ hy]
    exact byte_sub_eq 0 _
  case fromOne =>
    subst hx
    refine (subReg_writes (if_neg (Nat.not_lt.mpr hle)) ?_).writesReg_VF
    rw [s.reg_setV_same VF, s.reg_setV_other VF y _ hy]
    exact byte_sub_eq 1 _
  case both =>
    subst hx hy
    exact (subReg_writes rfl (BitVec.sub_self _)).writesReg_VF

/-- Settles O22: an offered byte leaves the count of free bytes; a free byte moves it on. -/
theorem randomIsTheMaskedByteOfTheStep : Obligations.RandomIsTheMaskedByteOfTheStep := by
  refine fun s x nn => ⟨fun b h => ?offered, fun h => ?free⟩
  case offered =>
    refine writesReg_of_exec ?_
    rw [exec_rnd, State.rndByte_of_offered h, State.consumeRnd_of_offered h]
  case free =>
    refine ⟨s.rndByte, (s.setV x (nn &&& s.rndByte)).v, ?_, State.rndByte_of_free h,
      fun r => s.reg_setV x r _⟩
    rw [exec_rnd, State.consumeRnd_of_free h]
    rfl

end

section
/-! SUPPORT. What the index and memory instructions write to I, to memory and to the registers (spec
42_index_and_memory.md R80 to R85). -/

namespace Sys2Proof.Machine

/-! ### The words that go to I (R81, R82) -/

theorem add_wide_toNat (w : Word) (b : Byte) :
    (w + wide b).toNat = (w.toNat + b.toNat) % 65536 := by
  rw [BitVec.toNat_add, wide, BitVec.toNat_setWidth_of_le (by decide)]

/-- R82: the greatest glyph address is 1275, so nothing is lost in 16 bits. -/
theorem glyphAddress_toNat (b : Byte) : (glyphAddress b).toNat = b.toNat * 5 := by
  rw [glyphAddress, BitVec.toNat_ofNat]
  omega

/-! ### The digits in memory (R83) -/

theorem decimalDigits_map_toNat (b : Byte) :
    (decimalDigits b).map BitVec.toNat = [b.toNat / 100, b.toNat / 10 % 10, b.toNat % 10] := by
  simp only [decimalDigits, List.map_cons, List.map_nil, BitVec.toNat_ofNat, List.cons.injEq,
    and_true]
  omega

theorem Memory.read_writeBytes_decimalDigits (m : Memory) (a : Nat) (b : Byte) (k : Nat)
    (h : k < 3) : ((m.writeBytes a (decimalDigits b)).read (a + k)).toNat =
      [b.toNat / 100, b.toNat / 10 % 10, b.toNat % 10][k] := by
  rw [Memory.read_writeBytes_inside (decimalDigits b) m a k h]
  simp only [← decimalDigits_map_toNat]
  exact (List.getElem_map BitVec.toNat).symm

variable {s : State} {x : Reg}

/-! ### The instructions with a bounds check (R36, R83 to R85) -/

theorem exec_ldBcd_ok (h : s.i.toNat + 2 ≤ 4095) : exec (.ldBcd x) s =
    .next (s.setMem (s.mem.writeBytes s.i.toNat (decimalDigits (s.reg x)))).advance :=
  s.checkTop_ok _ h

theorem exec_ldBcd_fault (h : s.i.toNat + 2 > 4095) :
    exec (.ldBcd x) s = .fault (.memoryOutOfRange s.i) := s.checkTop_fault _ h

theorem exec_storeRegs_fault (h : s.i.toNat + x.val > 4095) :
    exec (.storeRegs x) s = .fault (.memoryOutOfRange s.i) := s.checkTop_fault _ h

theorem exec_loadRegs_fault (h : s.i.toNat + x.val > 4095) :
    exec (.loadRegs x) s = .fault (.memoryOutOfRange s.i) := s.checkTop_fault _ h

theorem loadRegs_writes (h : s.i.toNat + x.val ≤ 4095) : WritesRegs (.loadRegs x) s fun r =>
    if r ≤ x then s.mem.read (s.i.toNat + r.val) else s.v[r] :=
  ⟨s.loadUpTo x, s.checkTop_ok _ h, s.loadUpTo_get x⟩

end Sys2Proof.Machine

open Sys2Proof Sys2Proof.Machine

/-- Settles O24: inside the block of three bytes each address reads its digit, outside it the old
byte. -/
theorem bcdStoresThreeDigits : Obligations.BcdStoresThreeDigits := by
  refine fun s x => ⟨fun h => ?stores, fun h => exec_ldBcd_fault (by omega)⟩
  case stores =>
    have digit := s.mem.read_writeBytes_decimalDigits s.i.toNat (s.reg x)
    refine ⟨_, exec_ldBcd_ok (by omega), digit 0 (by decide), digit 1 (by decide),
      digit 2 (by decide), fun a ha => ?outside⟩
    case outside =>
      refine Memory.read_writeBytes_outside _ _ _ _ ?_
      rw [decimalDigits_length]
      omega

/-- Settles O25: inside the block of x + 1 bytes each address reads its register, outside it the old
byte. -/
theorem storeRegistersFromI : Obligations.StoreRegistersFromI := by
  refine fun s x => ⟨fun h => ?stores, exec_storeRegs_fault⟩
  case stores =>
    refine ⟨_, exec_storeRegs_ok h, fun j hj => s.read_writeBytes_regsUpTo _ _ hj,
      fun a ha => ?outside⟩
    case outside =>
      refine Memory.read_writeBytes_outside _ _ _ _ ?_
      rw [s.regsUpTo_length x]
      omega

/-- Settles O26. -/
theorem loadRegistersFromI : Obligations.LoadRegistersFromI :=
  fun _ _ => ⟨loadRegs_writes, exec_loadRegs_fault⟩

/-- Settles O27: the load reads each register at the address where the store put it. -/
theorem storeThenLoadRestoresTheRegisters : Obligations.StoreThenLoadRestoresTheRegisters := by
  intro s x h
  refine ⟨_, exec_storeRegs_ok h, rfl, fun u hmem hi => ?_⟩
  replace hi : u.i = s.i := hi
  obtain ⟨v', hexec, hv⟩ := loadRegs_writes (s := u) (x := x) (by rwa [hi])
  refine ⟨_, hexec, hi, fun j hj => ?_⟩
  calc v'[j] = u.mem.read (u.i.toNat + j.val) := (hv j).trans (if_pos hj)
    _ = (s.mem.writeBytes s.i.toNat (s.regsUpTo x)).read (s.i.toNat + j.val) := by
      rw [hmem, hi]; rfl
    _ = s.v[j] := s.read_writeBytes_regsUpTo _ _ hj

/-- Settles O23: each is one write of I, and the word written is the number its rule gives. -/
theorem indexInstructionsWriteOnlyI : Obligations.IndexInstructionsWriteOnlyI :=
  fun s x nnn => ⟨address nnn, s.i + wide s.v[x], glyphAddress s.v[x], rfl, address_toNat nnn,
    rfl, add_wide_toNat s.i s.v[x], rfl, glyphAddress_toNat s.v[x]⟩

end

section
/-! SUPPORT. What 00E0 and Dxyn leave in the framebuffer and in VF (spec 43_display.md R88, R89), and what
the other instructions and events leave of it (R112). -/

namespace Sys2Proof.Machine

variable {s t : State} {x y : Reg}

/-! ### The collision flag -/

theorem collisionFlag_eq_zero_or_one (hit : Bool) : collisionFlag hit = 0 ∨ collisionFlag hit = 1 := by
  cases hit
  · exact .inl rfl
  · exact .inr rfl

theorem collisionFlag_eq_one_iff {hit : Bool} : collisionFlag hit = 1 ↔ hit = true := by
  cases hit <;> decide

/-! ### The guard of Dxyn (R36, R89) -/

theorem exec_drw_ok {n : Fin 16} (h : n.val = 0 ∨ s.i.toNat + n.val - 1 ≤ 4095) :
    exec (.drw x y n) s = .next (s.drawSprite x y n.val) := by
  by_cases hn : n.val = 0
  · rw [hn]; exact if_pos hn
  · exact (if_neg hn).trans (s.checkTop_ok _ (by omega))

theorem exec_drw_fault {n : Fin 16} (hn : n.val > 0) (h : s.i.toNat + n.val - 1 > 4095) :
    exec (.drw x y n) s = .fault (.memoryOutOfRange s.i) :=
  (if_neg (by omega)).trans (s.checkTop_fault _ (by omega))

/-! ### The sprite on the screen (R89) -/

theorem covers_iff {n : Nat} {cx : Fin 64} {cy : Fin 32} : Covers s x y n cx cy ↔
    ∃ row, row < n ∧ ∃ col, col < 8 ∧ spriteBit (s.mem.read (s.i.toNat + row)) col = true ∧
      cx.val = ((s.reg x).toNat + col) % 64 ∧ cy.val = ((s.reg y).toNat + row) % 32 := by
  constructor
  · rintro ⟨row, col, hrow, hcell⟩
    exact ⟨row, hrow, col, hcell⟩
  · rintro ⟨row, hrow, col, hcell⟩
    exact ⟨row, col, hrow, hcell⟩

/-- The cells a sprite covers depend on memory, I and the two coordinate registers only. -/
theorem covers_congr {n : Nat} {cx : Fin 64} {cy : Fin 32} (hmem : t.mem = s.mem) (hi : t.i = s.i)
    (hx : t.v[x] = s.v[x]) (hy : t.v[y] = s.v[y]) : Covers t x y n cx cy ↔ Covers s x y n cx cy := by
  unfold Covers
  rw [hmem, hi, hx, hy]

section
variable (s : State) (x y : Reg) (n : Fin 16)

/-- Dxyn flips the covered cells, and VF ends as the flag of the collision among them. -/
theorem State.drawSprite_flips : ∃ hit : Bool,
    (s.drawSprite x y n.val).v[(15 : Reg)] = collisionFlag hit ∧
    Canvas.Flips (Covers s x y n.val) (s.fb, false) ((s.drawSprite x y n.val).fb, hit) := by
  have hn : n.val ≤ 32 := by omega
  have flips :=
    Canvas.flips_sprite s.mem s.i.toNat (s.reg x).toNat (s.reg y).toNat n.val hn (s.fb, false)
  exact ⟨_, s.reg_setV_same VF _, Canvas.flips_congr flips fun _ _ => covers_iff.symm⟩

theorem State.drawSprite_cell_of_covers {cx : Fin 64} {cy : Fin 32} (h : Covers s x y n.val cx cy) :
    (s.drawSprite x y n.val).fb.cell cx cy = !s.fb.cell cx cy := by
  obtain ⟨hit, -, hcells, -⟩ := s.drawSprite_flips x y n
  exact Bool.eq_iff_iff.mpr ((hcells cx cy).trans (by simp [h]))

theorem State.drawSprite_cell_of_not_covers {cx : Fin 64} {cy : Fin 32}
    (h : ¬Covers s x y n.val cx cy) :
    (s.drawSprite x y n.val).fb.cell cx cy = s.fb.cell cx cy := by
  obtain ⟨hit, -, hcells, -⟩ := s.drawSprite_flips x y n
  exact Bool.eq_iff_iff.mpr ((hcells cx cy).trans (by simp [h]))

theorem State.drawSprite_VF_eq_zero_or_one :
    (s.drawSprite x y n.val).v[(15 : Reg)] = 0 ∨ (s.drawSprite x y n.val).v[(15 : Reg)] = 1 := by
  obtain ⟨hit, hVF, -⟩ := s.drawSprite_flips x y n
  rw [hVF]
  exact collisionFlag_eq_zero_or_one hit

theorem State.drawSprite_VF_eq_one_iff : (s.drawSprite x y n.val).v[(15 : Reg)] = 1 ↔
    ∃ cx cy, Covers s x y n.val cx cy ∧ s.fb.cell cx cy = true := by
  obtain ⟨hit, hVF, -, hhit⟩ := s.drawSprite_flips x y n
  rw [hVF, collisionFlag_eq_one_iff, hhit]
  simp [and_comm]

variable {x y}

/-- A draw at coordinates not in VF leaves the place of the sprite. -/
theorem State.covers_drawSprite (hx : x ≠ 15) (hy : y ≠ 15) (cx : Fin 64) (cy : Fin 32) :
    Covers (s.drawSprite x y n.val) x y n.val cx cy ↔ Covers s x y n.val cx cy :=
  covers_congr rfl rfl (s.drawSprite_v_other x y n.val x hx) (s.drawSprite_v_other x y n.val y hy)

theorem State.drawSprite_drawSprite_fb (hx : x ≠ 15) (hy : y ≠ 15) :
    ((s.drawSprite x y n.val).drawSprite x y n.val).fb = s.fb := by
  refine Framebuffer.ext_cell _ _ fun cx cy => ?_
  have again := s.covers_drawSprite n hx hy cx cy
  by_cases h : Covers s x y n.val cx cy
  · rw [State.drawSprite_cell_of_covers _ x y n (again.mpr h), s.drawSprite_cell_of_covers x y n h,
      Bool.not_not]
  · rw [State.drawSprite_cell_of_not_covers _ x y n (mt again.mp h),
      s.drawSprite_cell_of_not_covers x y n h]

theorem State.drawSprite_drawSprite_VF (hx : x ≠ 15) (hy : y ≠ 15) :
    ((s.drawSprite x y n.val).drawSprite x y n.val).v[(15 : Reg)] = 1 ↔
      ∃ cx cy, Covers s x y n.val cx cy ∧ s.fb.cell cx cy = false := by
  rw [State.drawSprite_VF_eq_one_iff]
  refine exists_congr fun cx => exists_congr fun cy => ?_
  rw [s.covers_drawSprite n hx hy]
  refine and_congr_right fun h => ?_
  rw [s.drawSprite_cell_of_covers x y n h, Bool.not_eq_true']

end

/-! ### FBREAD (R112) -/

theorem Framebuffer.cells_getElem? (fb : Framebuffer) (cx : Fin 64) (cy : Fin 32) :
    fb.cells[cy.val * 64 + cx.val]? = some (fb.cell cx cy) := by
  have hcol : Fin.ofNat 64 (cy.val * 64 + cx.val) = cx := by
    rw [Fin.ext_iff, Fin.val_ofNat]; omega
  have hrow : Fin.ofNat 32 ((cy.val * 64 + cx.val) / 64) = cy := by
    rw [Fin.ext_iff, Fin.val_ofNat]; omega
  have hindex : cy.val * 64 + cx.val < 2048 := by omega
  rw [Framebuffer.cells, List.getElem?_map, List.getElem?_range hindex, Option.map_some, hcol, hrow]

/-! ### What leaves the framebuffer alone (R112) -/

theorem Completes.fb_eq_of_not_draw {i : Instr} (h : Completes s i t) (hdraw : t.draw = false) :
    t.fb = s.fb := by
  cases h with
  | cls | drw => cases hdraw
  | rnd => rfl
  | _ => simp

theorem stepWith_fb {r : Option Byte} (h : stepWith r s = .next t) (hdraw : t.draw = false) :
    t.fb = s.fb := by
  obtain ⟨-, hstep⟩ | ⟨-, hstep⟩ := stepWith_cases s r
  · exact (completes_of_exec (hstep.symm.trans h)).fb_eq_of_not_draw hdraw
  · rw [hstep] at h
    cases h

theorem applyEvent_fb {e : Event} (h : applyEvent e s = .next t) (hload : ∀ rom, e ≠ .load rom)
    (hdraw : ∀ r, e = .step r → t.draw = false) : t.fb = s.fb := by
  cases e with
  | load rom => exact absurd rfl (hload rom)
  | step r => exact stepWith_fb h (hdraw r rfl)
  | setKey | tick | fbRead => cases h; rfl

end Sys2Proof.Machine

open Sys2Proof Sys2Proof.Machine

/-- Settles O30: what the guard lets through flips the covered cells, and the rest faults. -/
theorem drawFlipsExactlyTheCoveredCells : Obligations.DrawFlipsExactlyTheCoveredCells := by
  refine fun s x y n => ⟨fun h => ?draws, exec_drw_fault⟩
  case draws =>
    exact ⟨_, _, exec_drw_ok h, fun _ _ => s.drawSprite_cell_of_covers x y n,
      fun _ _ => s.drawSprite_cell_of_not_covers x y n, s.drawSprite_v_other x y n.val,
      s.drawSprite_VF_eq_zero_or_one x y n, s.drawSprite_VF_eq_one_iff x y n⟩

/-- Settles O31: the second draw covers the same cells, so it flips back what the first one flipped and
collides where the first one lit a cell. -/
theorem drawingTwiceRestoresTheFramebuffer : Obligations.DrawingTwiceRestoresTheFramebuffer :=
  fun s _ _ n hx hy h => ⟨_, _, exec_drw_ok h, exec_drw_ok h, s.drawSprite_drawSprite_fb n hx hy,
    s.drawSprite_drawSprite_VF n hx hy⟩

/-- Settles O49: the cells are read at their index, and only 00E0 and Dxyn, which report `draw`, write
them. -/
theorem framebufferIsReadInOrderAndChangesOnlyWithDraw :
    Obligations.FramebufferIsReadInOrderAndChangesOnlyWithDraw :=
  ⟨fun s => ⟨applyEvent_fbRead s, s.fb.cells_length, s.fb.cells_getElem?⟩,
    fun _ _ _ => applyEvent_fb⟩

/-- Settles O29. -/
theorem clearZeroesEveryCell : Obligations.ClearZeroesEveryCell :=
  fun _ => ⟨Framebuffer.clear, rfl, Framebuffer.cell_clear⟩

end

section
/-! SUPPORT. The key skips as equations, the timers under TICK, and what a frame of the reference schedule
leaves in DT (spec 44_keys_and_timers.md R92 to R96, 60_exceptions.md R108, R109). -/

namespace Sys2Proof.Machine

variable {s : State} {x : Reg}

/-! ### The key skips (R92, R93) -/

theorem State.keySkip_ok {k : Fin 16} (level : Bool) (h : s.v[x].toNat = k.val) :
    s.keySkip x level = .next { s with pc := s.pc + if s.keys[k] = level then 4 else 2 } := by
  have hkey : ¬(s.reg x).toNat > 15 := by rw [State.reg, h]; omega
  have hk : (⟨(s.reg x).toNat, by omega⟩ : Fin 16) = k := Fin.ext h
  rw [State.keySkip, dif_neg hkey, hk]
  exact congrArg _ (s.advanceSkip_of_iff beq_iff_eq)

theorem State.keySkip_fault (level : Bool) (h : s.v[x].toNat > 15) :
    s.keySkip x level = .fault (.keyIndexOutOfRange (s.v[x].setWidth 16)) := dif_pos h

/-! ### The key wait (R94) -/

theorem exec_ldKey_of_none (h : s.leastKey = none) : exec (.ldKey x) s = .next s := by
  simp only [exec, execLdKey, h]

theorem exec_ldKey_of_some {j : Fin 16} (h : s.leastKey = some j) :
    exec (.ldKey x) s = s.result x (BitVec.ofNat 8 j.val) := by
  simp only [exec, execLdKey, h, State.result]

/-! ### The delay timer (R95, R96) -/

theorem exec_ldFromDt (s : State) (x : Reg) : exec (.ldFromDt x) s = .next (s.setV x s.dt).advance := rfl

theorem exec_ldToDt (s : State) (x : Reg) : exec (.ldToDt x) s = .next (s.setDt (s.reg x)).advance := rfl

/-! ### Counting down (R19, R108) -/

/-- Truncated subtraction says the stop at 0. -/
@[simp] theorem countDown_toNat (b : Byte) : (countDown b).toNat = b.toNat - 1 := by
  unfold countDown
  split
  · bv_omega
  · omega

theorem runEvents_replicate_tick_dt (k : Nat) (s : State) :
    (runEvents (List.replicate k .tick) s).dt.toNat = s.dt.toNat - k := by
  induction k generalizing s with
  | zero => rfl
  | succ k ih =>
    rw [List.replicate_succ, runEvents_cons, ih, State.after_tick, State.tick_dt, countDown_toNat]
    omega

/-! ### A STEP as an event (R60, R101) -/

theorem State.after_step_of_next {t : State} {r : Byte} (h : stepWith (some r) s = .next t) :
    s.after (.step r) = t := by
  simp only [State.after, applyEvent, h]

/-- A STEP that does not fetch an Fx15 keeps DT: it completes without writing DT, or changes nothing. -/
theorem State.after_step_dt (r : Byte)
    (h : ∀ (w : Word) (x : Reg), s.fetch = .next w → decode w ≠ .ldToDt x) :
    (s.after (.step r)).dt = s.dt := by
  unfold State.after
  split
  · next t ht =>
    obtain ⟨hpc, hstep⟩ | ⟨-, hfault⟩ := stepWith_cases s (some r)
    · obtain ⟨-, -, hdt | ⟨x, hx⟩, -⟩ := (completes_of_exec (hstep.symm.trans ht)).keys_timers_host
      · exact hdt
      · exact absurd hx (h _ x (s.fetch_ok hpc))
    · cases hfault.symm.trans ht
  · rfl
  · rfl

/-! ### One frame of the reference schedule (R109) -/

/-- A frame is its SETKEYs, its STEP and a TICK: reading the screen changes nothing. -/
theorem runFrame_eq (f : FrameInput) (s : State) :
    runFrame f s = ((runEvents f.keyEvents s).after (.step f.rnd)).tick := by
  simp only [runFrame, referenceFrame, runEvents_append, runEvents_presentation, runEvents_cons,
    runEvents_nil, State.after_tick]

/-- The SETKEYs of a frame come before its STEP and leave it all but the keys. -/
theorem runFrame_eq_of_keys (f : FrameInput) (s : State) : ∃ keys : Vector Bool 16,
    runFrame f s = (State.after (.step f.rnd) { s with keys := keys }).tick := by
  obtain ⟨keys, hkeys⟩ := runEvents_setKeys s f.keys
  exact ⟨keys, by rw [runFrame_eq, FrameInput.keyEvents, hkeys]⟩

/-- A frame whose STEP fetches `w` ends with the TICK on what the instruction of `w` leaves. -/
theorem runFrame_of_fetch (f : FrameInput) {w : Word} (hw : s.fetch = .next w) :
    ∃ keys : Vector Bool 16, ∀ t,
      exec (decode w) (State.beginStep { s with keys := keys } (some f.rnd)) = .next t →
      runFrame f s = t.tick := by
  obtain ⟨keys, hframe⟩ := runFrame_eq_of_keys f s
  refine ⟨keys, fun t ht => ?_⟩
  have hstep := stepWith_of_fetch (s := { s with keys := keys }) (some f.rnd) hw
  rw [hframe, State.after_step_of_next (hstep.trans ht)]

theorem runFrame_dt_of_ldToDt (f : FrameInput) {w : Word} (hw : s.fetch = .next w)
    (hx : decode w = .ldToDt x) : (runFrame f s).dt = countDown s.v[x] := by
  obtain ⟨keys, hframe⟩ := runFrame_of_fetch f hw
  rw [hframe _ (hx ▸ exec_ldToDt _ x)]
  rfl

theorem runFrame_v_of_ldFromDt (f : FrameInput) {w : Word} (hw : s.fetch = .next w)
    (hx : decode w = .ldFromDt x) : (runFrame f s).v[x] = s.dt := by
  obtain ⟨keys, hframe⟩ := runFrame_of_fetch f hw
  rw [hframe _ (hx ▸ exec_ldFromDt _ x)]
  exact State.reg_setV_same _ x s.dt

theorem runFrame_dt_of_not_ldToDt (f : FrameInput)
    (h : ∀ (w : Word) (x : Reg), s.fetch = .next w → decode w ≠ .ldToDt x) :
    (runFrame f s).dt = countDown s.dt := by
  obtain ⟨keys, hframe⟩ := runFrame_eq_of_keys f s
  rw [hframe, State.tick_dt, State.after_step_dt (s := { s with keys := keys }) f.rnd h]

/-! ### Frames that set no delay (R109) -/

theorem runFrames_dt (fs : List FrameInput) (s : State) (h : NoDelaySet fs s) :
    (runFrames fs s).dt.toNat = s.dt.toNat - fs.length := by
  induction fs generalizing s with
  | nil => rfl
  | cons f fs ih =>
    obtain ⟨hfetch, hrest⟩ := h
    rw [runFrames_cons, ih _ hrest, runFrame_dt_of_not_ldToDt f hfetch, countDown_toNat, List.length_cons]
    omega

end Sys2Proof.Machine

open Sys2Proof Sys2Proof.Machine

/-- Settles O32: both skips compare the key that the whole byte names, and a byte that names none
faults. -/
theorem keySkipsTestTheKeyNamed : Obligations.KeySkipsTestTheKeyNamed :=
  fun _ _ => ⟨fun _ h => ⟨State.keySkip_ok true h, State.keySkip_ok false h⟩,
    fun h => ⟨State.keySkip_fault true h, State.keySkip_fault false h⟩⟩

/-- Settles O33: the scan finds no key, and nothing changes, or the least pressed one, and its number is
one register write. -/
theorem keyWaitStoresTheLeastPressedKey : Obligations.KeyWaitStoresTheLeastPressedKey :=
  fun s _ => ⟨fun h => exec_ldKey_of_none (s.leastKey_none.mpr h),
    fun j hj hlower => writesReg_of_exec (exec_ldKey_of_some ((s.leastKey_some j).mpr ⟨hj, hlower⟩))⟩

/-- Settles O34: Fx07 is one register write, and the ticks are counted from the value Fx15 set. -/
theorem delayTimerIsReadSetAndCountedDown : Obligations.DelayTimerIsReadSetAndCountedDown :=
  fun s x k => ⟨writesReg_of_exec (exec_ldFromDt s x), exec_ldToDt s x, runEvents_replicate_tick_dt k _⟩

/-- Settles O59: the frame of the Fx15 ends in the first tick, each frame between in one more, and the
Fx07 reads DT before the tick of its own frame. -/
theorem referenceScheduleCountsOneTickAFrame : Obligations.ReferenceScheduleCountsOneTickAFrame := by
  intro f g fs s w w' x y hw hx hquiet hw' hy
  have hset : (runFrame f s).dt.toNat = s.v[x].toNat - 1 := by
    rw [runFrame_dt_of_ldToDt f hw hx, countDown_toNat]
  calc (runFrame g (runFrames (f :: fs) s)).v[y].toNat
      = (runFrames fs (runFrame f s)).dt.toNat := congrArg _ (runFrame_v_of_ldFromDt g hw' hy)
    _ = s.v[x].toNat - 1 - fs.length := by rw [runFrames_dt fs _ hquiet, hset]
    _ = s.v[x].toNat - (fs.length + 1) := by omega

end

section
/-! SUPPORT. The unknown opcode as an equation, and the STEP that fetches one (spec 45_unknown_opcode.md
R98). -/

namespace Sys2Proof.Machine

theorem exec_unknown (s : State) (w : Word) :
    exec (.unknown w) s = .next { s with unknown := true, pc := s.pc + 2 } := rfl

theorem stepWith_of_decode_unknown {s : State} {w : Word} (r : Option Byte) (hfetch : s.fetch = .next w)
    (hdecode : decode w = .unknown w) : stepWith r s =
      .next { s with rnd := r, draw := false, unknown := true, pc := s.pc + 2 } := by
  rw [stepWith_of_fetch r hfetch, hdecode, exec_unknown]
  rfl

end Sys2Proof.Machine

open Sys2Proof Sys2Proof.Machine

/-- Settles O35: a word that matches no row decodes to the unknown opcode (O3), which the STEP then
executes. -/
theorem unknownOpcodeOnlyAdvances : Obligations.UnknownOpcodeOnlyAdvances := by
  refine ⟨exec_unknown, fun s r w hfetch hnone => ?step⟩
  case step =>
    obtain ⟨-, -, hunknown⟩ := decoderSelectsTheMatchingRow
    exact stepWith_of_decode_unknown (some r) hfetch ((hunknown w).mp hnone)

end

section
/-! SUPPORT. Which instruction and which STEP faults, what a fault leaves, and what a STEP and a frame
report (spec 60_exceptions.md R100 to R112). -/

namespace Sys2Proof.Machine

variable {s t : State} {i : Instr} {f : Fault}

/-! ### The table of R100 for the execute stage -/

/-- One guarded row of the table, where its condition holds. -/
theorem eq_fault_of_guard {c : Prop} [Decidable c] {g : Fault} {r : Result}
    (h : (if c then some g else none) = some f) (hr : c → r = .fault g) : r = .fault f := by
  obtain ⟨hc, hg⟩ := Option.ite_none_right_eq_some.mp h
  rw [hr hc, Option.some.inj hg]

/-- One guarded row of the table, where its condition does not hold. -/
theorem exists_next_of_guard {c : Prop} [Decidable c] {g : Fault} {r : Result}
    (h : (if c then some g else none) = none) (hr : ¬c → ∃ t, r = .next t) : ∃ t, r = .next t :=
  hr fun hc => nomatch (if_pos hc).symm.trans h

theorem exec_of_faultOf_some (h : faultOf i s = some f) : exec i s = .fault f := by
  cases i with
  | ret => exact eq_fault_of_guard h (exec_ret_fault s)
  | call a => exact eq_fault_of_guard h (exec_call_fault s a)
  | drw x y n => exact eq_fault_of_guard h fun ⟨hn, htop⟩ => exec_drw_fault hn htop
  | skp x => exact eq_fault_of_guard h (State.keySkip_fault true)
  | sknp x => exact eq_fault_of_guard h (State.keySkip_fault false)
  | ldBcd x => exact eq_fault_of_guard h exec_ldBcd_fault
  | storeRegs x => exact eq_fault_of_guard h exec_storeRegs_fault
  | loadRegs x => exact eq_fault_of_guard h exec_loadRegs_fault
  | _ => cases h

theorem State.keySkip_completes {x : Reg} (level : Bool) (h : ¬s.v[x].toNat > 15) :
    ∃ t, s.keySkip x level = .next t :=
  ⟨_, State.keySkip_ok (k := ⟨s.v[x].toNat, by omega⟩) level rfl⟩

theorem exec_ldKey_completes (x : Reg) : ∃ t, exec (.ldKey x) s = .next t := by
  cases h : s.leastKey with
  | none => exact ⟨_, exec_ldKey_of_none h⟩
  | some j => exact ⟨_, exec_ldKey_of_some h⟩

theorem exec_of_faultOf_none (h : faultOf i s = none) : ∃ t, exec i s = .next t := by
  cases i with
  | ret => exact exists_next_of_guard h fun hsp => ⟨_, exec_ret_ok s hsp⟩
  | call a => exact exists_next_of_guard h fun hsp => ⟨_, exec_call_ok s a hsp⟩
  | drw x y n => exact exists_next_of_guard h fun htop => ⟨_, exec_drw_ok (by omega)⟩
  | skp x => exact exists_next_of_guard h (State.keySkip_completes true)
  | sknp x => exact exists_next_of_guard h (State.keySkip_completes false)
  | ldKey x => exact exec_ldKey_completes x
  | ldBcd x => exact exists_next_of_guard h fun htop => ⟨_, exec_ldBcd_ok (Nat.not_lt.mp htop)⟩
  | storeRegs x => exact exists_next_of_guard h fun htop => ⟨_, exec_storeRegs_ok (Nat.not_lt.mp htop)⟩
  | loadRegs x => exact exists_next_of_guard h fun htop => ⟨_, s.checkTop_ok _ (Nat.not_lt.mp htop)⟩
  | _ => exact ⟨_, rfl⟩

theorem exec_eq_fault_iff : exec i s = .fault f ↔ faultOf i s = some f := by
  refine ⟨fun h => ?_, exec_of_faultOf_some⟩
  cases hf : faultOf i s with
  | none =>
    obtain ⟨t, ht⟩ := exec_of_faultOf_none hf
    cases ht.symm.trans h
  | some g =>
    cases (exec_of_faultOf_some hf).symm.trans h
    rfl

/-! ### The fault of a STEP and what it depends on (R101, R102) -/

/-- The fault a STEP raises, if any: that of the fetch, else that of the instruction fetched. -/
def State.stepFault (s : State) : Option Fault :=
  match s.fetch with
  | .next w => faultOf (decode w) s
  | .fault f => some f
  | .refused _ => none

/-- Two states that no condition of R100 tells apart. -/
structure State.SameFaultInputs (t s : State) : Prop where
  pc : t.pc = s.pc
  sp : t.sp = s.sp
  i : t.i = s.i
  v : t.v = s.v
  mem : t.mem = s.mem

theorem State.SameFaultInputs.faultOf_eq (h : t.SameFaultInputs s) (i : Instr) :
    faultOf i t = faultOf i s := by
  cases i <;> simp only [faultOf, h.pc, h.sp, h.i, h.v]

theorem State.SameFaultInputs.stepFault_eq (h : t.SameFaultInputs s) : t.stepFault = s.stepFault := by
  have hfetch : t.fetch = s.fetch := by simp only [State.fetch, h.pc, h.mem]
  simp only [State.stepFault, hfetch, h.faultOf_eq]

theorem stepWith_eq_fault_iff {r : Option Byte} : stepWith r s = .fault f ↔ s.stepFault = some f := by
  have hbegin : (s.beginStep r).SameFaultInputs s := ⟨rfl, rfl, rfl, rfl, rfl⟩
  obtain ⟨hpc, hstep⟩ | ⟨hpc, hstep⟩ := stepWith_cases s r
  · rw [hstep, exec_eq_fault_iff, hbegin.faultOf_eq]
    simp only [State.stepFault, s.fetch_ok hpc]
  · rw [hstep]
    simp only [State.stepFault, s.fetch_fault hpc, Host.Outcome.fault.injEq, Option.some.injEq]

/-! ### A fault is raised until a LOAD (R101, R104) -/

theorem State.after_step_of_fault {r : Byte} (h : stepWith (some r) s = .fault f) :
    s.after (.step r) = s := by
  simp only [State.after, applyEvent, h]

/-- TICK and SETKEY change nothing that a fault depends on, and a faulting STEP changes nothing. -/
theorem State.stepFault_after {e : Event} (h : s.stepFault = some f) (he : ∀ rom, e ≠ .load rom) :
    (s.after e).stepFault = some f := by
  cases e with
  | load rom => exact absurd rfl (he rom)
  | step r => rwa [State.after_step_of_fault (stepWith_eq_fault_iff.mpr h)]
  | tick | setKey =>
    rw [← h]
    exact State.SameFaultInputs.stepFault_eq ⟨rfl, rfl, rfl, rfl, rfl⟩
  | fbRead => exact h

theorem stepFault_runEvents {es : List Event} (h : s.stepFault = some f)
    (hes : ∀ e ∈ es, ∀ rom, e ≠ .load rom) : (runEvents es s).stepFault = some f := by
  induction es generalizing s with
  | nil => exact h
  | cons e es ih =>
    obtain ⟨he, hes⟩ := List.forall_mem_cons.mp hes
    exact ih (State.stepFault_after h he) hes

/-! ### What a STEP reports (R107) -/

theorem Completes.draw_iff (h : Completes s i t) (hs : s.draw = false) :
    t.draw = true ↔ i = .cls ∨ ∃ x y n, i = .drw x y n := by
  cases h with
  | cls | drw => simp
  | _ => simp [hs]

theorem Completes.unknown_iff (h : Completes s i t) (hs : s.unknown = false) :
    t.unknown = true ↔ ∃ w, i = .unknown w := by
  cases h with
  | unknown => simp
  | _ => simp [hs]

/-- The word an unknown opcode carries is the one that was decoded (log 10). -/
theorem exists_decode_eq_unknown_iff {w : Word} :
    (∃ w', decode w = .unknown w') ↔ decode w = .unknown w := by
  refine ⟨?_, fun h => ⟨w, h⟩⟩
  rintro ⟨w', h⟩
  have hw : w' = w := (congrArg encode h).symm.trans (encode_decode w)
  rw [h, hw]

theorem stepResult_of_next {r : Byte} (h : stepWith (some r) s = .next t) :
    stepResult r s = some (.ok t.draw t.unknown) := by
  simp only [stepResult, h]

end Sys2Proof.Machine

open Sys2Proof Sys2Proof.Machine

/-- Settles O36: the execute stage by the rows of its table, the fetch and LOAD by their range checks. -/
theorem faultsAreExactlyTheListedOnes : Obligations.FaultsAreExactlyTheListedOnes := by
  refine ⟨fun _ _ _ => exec_of_faultOf_some, fun _ _ => exec_of_faultOf_none,
    fun s r => stepWith_above s (some r), fun s r hpc => ?runs, fun s rom hlen => ?tooLarge,
    fun s rom hlen => ?fits, fun s k p => ⟨⟨_, rfl⟩, ⟨_, rfl⟩, ⟨_, rfl⟩⟩, fun w => ?codes⟩
  case runs => exact ⟨_, s.fetch_ok hpc, stepWith_of_fetch (some r) (s.fetch_ok hpc)⟩
  case tooLarge =>
    have hmax : rom.length > Config.romMax := by simp only [Config.romMax]; omega
    exact if_pos hmax
  case fits => exact ⟨_, s.loadWith_ok defaultFont (by omega)⟩
  case codes => simp [Fault.code, Fault.info]

/-- Settles O38: what a fault depends on is kept by every event but LOAD, and a LOAD that fits completes
from every state. -/
theorem aFaultIsRaisedAgainUntilALoad : Obligations.AFaultIsRaisedAgainUntilALoad := by
  intro s r f h
  refine ⟨State.after_step_of_fault h, fun es r' hes => ?again, fun rom hlen => ?revived⟩
  case again =>
    refine stepWith_eq_fault_iff.mpr (stepFault_runEvents (stepWith_eq_fault_iff.mp h) ?_)
    rintro e he rom rfl
    simpa using hes _ he
  case revived => exact ⟨_, s.loadWith_ok defaultFont hlen, rfl⟩

/-- Settles O39: both outputs are false when the instruction begins, and no instruction is one of the
drawing two and an unknown opcode at once. -/
theorem outputsSayWhatRan : Obligations.OutputsSayWhatRan := by
  intro s t r w hfetch hstep
  have hcompletes : Completes (s.beginStep (some r)) (decode w) t :=
    completes_of_exec ((stepWith_of_fetch (some r) hfetch).symm.trans hstep)
  have hdraw := hcompletes.draw_iff rfl
  have hunknown := (hcompletes.unknown_iff rfl).trans exists_decode_eq_unknown_iff
  refine ⟨hdraw, hunknown, stepResult_of_next hstep, ?never⟩
  case never =>
    rintro ⟨hd, hu⟩
    have hi := hunknown.mp hu
    obtain hcls | ⟨x, y, n, hdrw⟩ := hdraw.mp hd
    · cases hcls.symm.trans hi
    · cases hdrw.symm.trans hi

/-- Settles O47. -/
theorem tickCountsBothTimersDown : Obligations.TickCountsBothTimersDown :=
  fun s => ⟨countDown s.dt, countDown s.st, rfl, countDown_toNat s.dt, countDown_toNat s.st⟩

/-- Settles O48: the key vector after SETKEY, read key by key. -/
theorem setKeyWritesOneKey : Obligations.SetKeyWritesOneKey := by
  refine fun s k p => ⟨s.keys.set k p, rfl, fun j => ?_⟩
  simp [Vector.getElem_set, Fin.ext_iff, eq_comm]

/-- Settles O58: what is shown is the presentation of the STEP's own report, and reading it changes
nothing. -/
theorem referenceFrameReadsTheScreenExactlyAfterDraw :
    Obligations.ReferenceFrameReadsTheScreenExactlyAfterDraw := by
  rintro f s s1 rfl
  refine ⟨presentation (reportsDraw f.rnd (runEvents f.keyEvents s)), ?events, fun hdraw => ?shown,
    fun hdraw => ?hidden, runFrame_eq f s⟩
  case events => simp only [referenceFrame, FrameInput.keyEvents, List.append_assoc]; rfl
  case shown => exact if_pos ((reportsDraw_iff _ f.rnd).mpr hdraw)
  case hidden => exact if_neg fun h => not_exists.mpr hdraw ((reportsDraw_iff _ f.rnd).mp h)

end

section
/-! SUPPORT. A LOAD that does not fit and the states a run reaches (spec 70_reset_and_hazards.md R122,
R133). -/

namespace Sys2Proof.Machine

variable {s : State}

/-- The other branch of LOAD, beside `State.loadWith_ok` (R122). -/
theorem State.loadWith_fault (s : State) (font : Vector Byte 80) {rom : List Byte}
    (h : rom.length > 3584) : s.loadWith font rom = .fault .romTooLarge := if_pos h

/-- R101: a fault of any event changes no state. -/
theorem State.after_of_fault {e : Event} {f : Fault} (h : applyEvent e s = .fault f) :
    s.after e = s := by
  rw [State.after, h]

/-- An event that completes keeps the invariant, and one that faults leaves the state. -/
theorem State.after_inv (e : Event) (hs : s.Inv) : (s.after e).Inv := by
  cases h : applyEvent e s with
  | next t => rw [State.after, h]; exact applyEvent_inv hs h
  | fault f => rw [State.after_of_fault h]; exact hs
  | refused q => exact absurd h (applyEvent_ne_refused e)

end Sys2Proof.Machine

open Sys2Proof Sys2Proof.Machine

/-- Settles O51: an image of 3585 bytes or more takes the faulting branch; the last byte of one of 3584
is read at 0x200 + 3583 = 4095. -/
theorem oversizeRomIsRefused : Obligations.OversizeRomIsRefused := by
  intro s rom
  refine ⟨fun hlength => ?refused, fun hlength => ?fits⟩
  case refused =>
    have hfault : applyEvent (.load rom) s = .fault .romTooLarge := s.loadWith_fault defaultFont hlength
    exact ⟨hfault, State.after_of_fault hfault⟩
  case fits =>
    refine ⟨_, s.loadWith_ok defaultFont hlength.le, ?_⟩
    have hlast : 3583 < rom.length := by omega
    rw [List.getD_eq_getElem rom 0 hlast]
    exact imageMemory_read_rom defaultFont rom 3583 hlast

/-- Settles O55, by induction on the events since the LOAD. -/
theorem reachableStatesMeetTheInvariant : Obligations.ReachableStatesMeetTheInvariant := by
  intro s hs
  induction hs with
  | load font rom s t hload => exact State.loadWith_inv hload
  | event e s _ ih => exact State.after_inv e ih

end
